-- ==== Sys2Proof/Word.lean ====
section
/-! DEFINITION. The words of FSKTX: bytes, 32-bit registers, 66-bit host bus transactions, and the byte orders of
integers (spec/00_scope.md R10, R11; spec/20_memory.md R60). -/

namespace Sys2Proof

/-- One byte of a buffer (spec/20_memory.md R60). -/
abbrev Byte := BitVec 8

/-- One 32-bit register, bus address or data word (spec/00_scope.md R7). -/
abbrev Word := BitVec 32

/-- One host bus transaction, KIND || ADDR || DATA (spec/30_encoding.md R76). -/
abbrev HbtWord := BitVec 66

/-- The SEL field of PARSE_ADDR: which address it parses (spec/30_encoding.md R71). -/
inductive AddrSel where
  /-- SEL = 0: SRC_TEXT into SRC_ADDR. -/
  | src
  /-- SEL = 1: TX_TEXT into TX_ADDR. -/
  | tx
  deriving DecidableEq, Repr

end Sys2Proof
end

