-- ==== Sys2Proof/Syntax.lean ====
section
/-! DEFINITION. The instructions of FSKTX: the seven commands and the four host bus transactions, one constructor a row of
spec/opcode_table.json (spec/30_encoding.md R72, R77). -/

namespace Sys2Proof

/-- An instruction: what a command word CMDW or a host bus transaction HBT stands for. A transaction keeps both its
fields, so that no bit of its encoding is lost; RD32 and RD8 ignore `data` (spec/30_encoding.md R76). -/
inductive Instr where
  /-- DIGEST, OPCODE 0x01 (spec/41_checksum.md R105). -/
  | digest
  /-- PARSE_ADDR, OPCODE 0x02, with SEL (spec/42_address.md R120). -/
  | parseAddr (sel : AddrSel)
  /-- BUILD_PACKET, OPCODE 0x03 (spec/43_framer.md R130). -/
  | buildPacket
  /-- GEN_TONE, OPCODE 0x04 (spec/44_tone.md R145). -/
  | genTone
  /-- MODULATE, OPCODE 0x05 (spec/45_modulator.md R163). -/
  | modulate
  /-- SEND, OPCODE 0x06 (spec/46_sequencer.md R178). -/
  | send
  /-- SAVE, OPCODE 0x07 (spec/46_sequencer.md R181). -/
  | save
  /-- RD32, KIND 0b00 (spec/40_host_access.md R91). -/
  | rd32 (addr data : Word)
  /-- WR32, KIND 0b01 (spec/40_host_access.md R92). -/
  | wr32 (addr data : Word)
  /-- RD8, KIND 0b10 (spec/40_host_access.md R93). -/
  | rd8 (addr data : Word)
  /-- WR8, KIND 0b11 (spec/40_host_access.md R94). -/
  | wr8 (addr data : Word)
  deriving DecidableEq, Repr

end Sys2Proof
end

