-- ==== Sys2Proof/Decode.lean ====
section
/-! DEFINITION. The decoder and the encoder of the two encoded forms: the 32-bit command word CMDW and the 66-bit host bus
transaction HBT (spec/30_encoding.md R70 to R80). Decoding is total and rejects a word by name. -/

namespace Sys2Proof

/-- What R80's `decode : u32 -> Option Cmd` answers with: the seven commands. -/
inductive Cmd where
  | digest
  | parseAddr (sel : AddrSel)
  | buildPacket
  | genTone
  | modulate
  | send
  | save
  deriving DecidableEq, Repr

/-- Why a word is no instruction (spec/30_encoding.md R74; the last one is not the spec's, log 16). -/
inductive DecodeError where
  /-- RES is not 0. -/
  | reservedNotZero
  /-- SEL = 1 with an opcode other than 0x02. -/
  | selNotZero
  /-- OPCODE is 0x00 or in 0x08 to 0xFF. -/
  | illegalOpcode
  /-- The number has more bits than the form it is given as. -/
  | tooManyBits
  deriving DecidableEq, Repr

/-- An encoded form (spec/30_encoding.md R70). -/
inductive Wire where
  | cmdw (w : Word)
  | hbt (t : HbtWord)
  deriving DecidableEq, Repr

/-! ### Fields -/

/-- CMDW bits 7:0 (spec/30_encoding.md R71). -/
def opcodeField (w : Word) : BitVec 8 := w.extractLsb' 0 8

/-- CMDW bit 8 (spec/30_encoding.md R71). -/
def selField (w : Word) : Bool := w.getLsbD 8

/-- CMDW bits 31:9 (spec/30_encoding.md R71). -/
def resField (w : Word) : BitVec 23 := w.extractLsb' 9 23

/-- HBT bits 65:64 (spec/30_encoding.md R76). -/
def kindField (t : HbtWord) : BitVec 2 := t.extractLsb' 64 2

/-- HBT bits 63:32 (spec/30_encoding.md R76). -/
def addrField (t : HbtWord) : Word := t.extractLsb' 32 32

/-- HBT bits 31:0 (spec/30_encoding.md R76). -/
def dataField (t : HbtWord) : Word := t.extractLsb' 0 32

/-! ### Decoding -/

/-- SEL of PARSE_ADDR: 0 = source, 1 = transmitter (spec/30_encoding.md R71). -/
def addrSelOf (sel : Bool) : AddrSel := if sel then .tx else .src

/-- A command that takes no SEL requires SEL = 0 (spec/30_encoding.md R73, R74). -/
def withoutSel (sel : Bool) (c : Cmd) : Except DecodeError Cmd :=
  if sel then .error .selNotZero else .ok c

/-- `decode` of spec/30_encoding.md R80, over the opcode map of R72. -/
def decodeCmdw (w : Word) : Except DecodeError Cmd :=
  if resField w ≠ 0 then .error .reservedNotZero
  else
    match (opcodeField w).toNat with
    | 0x01 => withoutSel (selField w) .digest
    | 0x02 => .ok (.parseAddr (addrSelOf (selField w)))
    | 0x03 => withoutSel (selField w) .buildPacket
    | 0x04 => withoutSel (selField w) .genTone
    | 0x05 => withoutSel (selField w) .modulate
    | 0x06 => withoutSel (selField w) .send
    | 0x07 => withoutSel (selField w) .save
    | _ => .error .illegalOpcode

/-- The HBT decoder, total (spec/30_encoding.md R77). -/
def decodeHbt (t : HbtWord) : Instr :=
  match (kindField t).toNat with
  | 0 => .rd32 (addrField t) (dataField t)
  | 1 => .wr32 (addrField t) (dataField t)
  | 2 => .rd8 (addrField t) (dataField t)
  | _ => .wr8 (addrField t) (dataField t)

/-- The instruction a command is. -/
def Cmd.toInstr : Cmd → Instr
  | .digest => .digest
  | .parseAddr sel => .parseAddr sel
  | .buildPacket => .buildPacket
  | .genTone => .genTone
  | .modulate => .modulate
  | .send => .send
  | .save => .save

/-- The decoder of both forms. -/
def decode : Wire → Except DecodeError Instr
  | .cmdw w => (decodeCmdw w).map Cmd.toInstr
  | .hbt t => .ok (decodeHbt t)

/-- The number `w` as an encoded form of a table row of `nbits` bits: CMDW rows have 32, HBT rows 66 (in whole bytes 72).
A number with a bit above its form is refused (log 16). -/
def wireOfNumber (nbits w : Nat) : Except DecodeError Wire :=
  if nbits ≤ 32 then
    if w < 2 ^ 32 then .ok (.cmdw (BitVec.ofNat 32 w)) else .error .tooManyBits
  else
    if w < 2 ^ 66 then .ok (.hbt (BitVec.ofNat 66 w)) else .error .tooManyBits

/-- The instruction the decoder reads from the number `w` of a table row of `nbits` bits. FSKTX moves a CMDW and an HBT
whole (spec/20_memory.md R60), so there are no bytes to order. -/
def decodeTableWord (nbits w : Nat) : Option Instr :=
  ((wireOfNumber nbits w).bind decode).toOption

/-! ### Encoding -/

/-- CMDW from its fields, RES || SEL || OPCODE (spec/30_encoding.md R71). -/
def cmdwOf (res : BitVec 23) (sel : Bool) (opcode : BitVec 8) : Word :=
  res.setWidth 32 <<< 9 ||| (BitVec.ofBool sel).setWidth 32 <<< 8 ||| opcode.setWidth 32

/-- HBT from its fields, KIND || ADDR || DATA (spec/30_encoding.md R76, R82). -/
def hbtOf (kind : BitVec 2) (addr data : Word) : HbtWord :=
  kind.setWidth 66 <<< 64 ||| addr.setWidth 66 <<< 32 ||| data.setWidth 66

/-- The word of a command (spec/30_encoding.md R72). -/
def encodeCmdw : Cmd → Word
  | .digest => cmdwOf 0 false 0x01
  | .parseAddr .src => cmdwOf 0 false 0x02
  | .parseAddr .tx => cmdwOf 0 true 0x02
  | .buildPacket => cmdwOf 0 false 0x03
  | .genTone => cmdwOf 0 false 0x04
  | .modulate => cmdwOf 0 false 0x05
  | .send => cmdwOf 0 false 0x06
  | .save => cmdwOf 0 false 0x07

/-- The encoded form of an instruction (spec/30_encoding.md R72, R77). -/
def encode : Instr → Wire
  | .digest => .cmdw (encodeCmdw .digest)
  | .parseAddr sel => .cmdw (encodeCmdw (.parseAddr sel))
  | .buildPacket => .cmdw (encodeCmdw .buildPacket)
  | .genTone => .cmdw (encodeCmdw .genTone)
  | .modulate => .cmdw (encodeCmdw .modulate)
  | .send => .cmdw (encodeCmdw .send)
  | .save => .cmdw (encodeCmdw .save)
  | .rd32 addr data => .hbt (hbtOf 0b00 addr data)
  | .wr32 addr data => .hbt (hbtOf 0b01 addr data)
  | .rd8 addr data => .hbt (hbtOf 0b10 addr data)
  | .wr8 addr data => .hbt (hbtOf 0b11 addr data)

end Sys2Proof
end

