-- ==== Sys2Proof/Config.lean ====
section
/-! DEFINITION. What FSKTX fixes as sizes (spec/00_scope.md R7) and what the spec leaves open: the reset values of the
configuration registers, the sample format, the tone function and the buffers' contents at reset (R8). The open ones are
opaque constants with no body, so no proof sees a value of theirs. -/

namespace Sys2Proof

namespace Config

/-- MSG_CAP: bytes of the message buffer (spec/00_scope.md R7). -/
abbrev msgCap : Nat := 65535

/-- Fixed header length of a packet (spec/00_scope.md R7). -/
abbrev headerLen : Nat := 83

/-- PKT_CAP = 83 + 65535: bytes of the packet buffer (spec/00_scope.md R7). -/
abbrev pktCap : Nat := 65618

/-- TEXT_CAP: bytes of each address text buffer (spec/00_scope.md R7). -/
abbrev textCap : Nat := 16

/-- CKSUM length in bytes (spec/00_scope.md R7). -/
abbrev cksumLen : Nat := 32

/-- MAX_REDUNDANCY (spec/00_scope.md R7). -/
abbrev maxRedundancy : Nat := 255

/-- Largest value of the one-byte sequence number (spec/60_exceptions.md R200). -/
abbrev maxSeq : Nat := 255

end Config

/-- CFG_RESET: the reset values of the six configuration registers to which the source gives no value
(spec/00_scope.md R8, spec/70_reset_and_hazards.md R231). -/
structure CfgReset where
  txAddr : Word
  redundancy : Word
  sampleRate : Word
  bitDur : Word
  fHigh : Word
  pause : Word
  deriving DecidableEq, Repr, Inhabited

/-- DESIGN CHOICE (log 4, unsafe). The parameter CFG_RESET of this machine, uninterpreted
(spec/93_implementation_defined.md U10). -/
opaque Config.cfgReset : CfgReset

/-- DESIGN CHOICE (log 8, safe). One output sample, as its code on the sink interface: the spec leaves the type and the
encoding open as parameter SAMPLE_FMT (spec/00_scope.md R8, spec/93_implementation_defined.md U12). A code is a name, not
an amplitude: nothing computes with it. -/
structure Sample where
  code : Nat
  deriving DecidableEq, Repr

/-- The code of zero amplitude, uninterpreted (log 8). -/
opaque Config.zeroCode : Nat

/-- The code of sample `k` of a tone whose frequency register holds `f`, at `sr` samples a second, uninterpreted
(log 9; spec/44_tone.md R148). -/
opaque Config.toneCode : Word → Nat → Nat → Nat

/-- The byte drawn for bus address `addr` at reset number `epoch`, uninterpreted (log 5; spec/20_memory.md R69). -/
opaque Config.resetByte : (epoch addr : Nat) → Byte

/-- A duration in seconds or a frequency in Hz in unsigned Q16.16, by its raw register value (spec/00_scope.md R12). -/
structure Q16 where
  raw : Word
  deriving DecidableEq, Repr

/-- `q(raw) = raw / 65536`, the rational a Q16.16 value denotes (spec/00_scope.md R12). -/
def Q16.toRat (v : Q16) : Rat := (v.raw.toNat : Rat) / 65536

end Sys2Proof
end

