-- ==== Sys2Proof/Machine/State.lean ====
section
/-! DEFINITION. The state of FSKTX as plain data: the tuple (REGS, BUFS, SEQR) of spec/10_state.md R20, with the
environment's inputs and the block's outputs beside it; the reasons a step can stop; the state after reset. -/

namespace Sys2Proof.Machine

/-- The error codes of STATUS.ERR (spec/60_exceptions.md R201). -/
inductive ErrCode where
  | ok
  | lengthExceeded
  | addressFormat
  | seqOverflow
  | sinkFailure
  | illegalCommand
  | configInvalid
  deriving DecidableEq, Repr

/-- A sink's answer to an event (spec/46_sequencer.md R172). -/
inductive Answer where
  | ok
  | fail
  deriving DecidableEq, Repr

/-- The two outbound agents (spec/00_scope.md R17). -/
inductive Sink where
  | audio
  | file
  deriving DecidableEq, Repr

/-- The sink events (spec/46_sequencer.md R171). -/
inductive Event where
  /-- AOpen: acquire the audio device. -/
  | aOpen
  /-- APlay(buf, sr): play a buffer at a sample rate. -/
  | aPlay (buf : List Sample) (sr : Nat)
  /-- APause(d): stay silent for `d` seconds. -/
  | aPause (d : Q16)
  /-- AClose: release the audio device. -/
  | aClose
  /-- FWrite(id, samples, sr): persist a sample sequence under a file name handle. -/
  | fWrite (id : Word) (samples : List Sample) (sr : Nat)
  deriving DecidableEq, Repr

/-- SEQR, the sequencer's hidden state (spec/10_state.md R48). -/
inductive Seqr where
  | idle
  | run (script : List Event) (opened aborting : Bool)
  deriving DecidableEq, Repr

/-- STATUS by its fields (spec/10_state.md R25). The reserved bits have no storage: they read 0 and ignore writes
(log 18). -/
structure Status where
  busy : Bool
  done : Bool
  err : BitVec 4
  wviol : Bool
  aerr : Bool
  sinkOpen : Bool
  deriving DecidableEq, Repr

/-- REGS, the register block (spec/10_state.md R23), in the order of its offsets. -/
structure Regs where
  cmd : Word
  status : Status
  msgLen : Word
  srcAddr : Word
  txAddr : Word
  seq : Word
  redundancy : Word
  sampleRate : Word
  bitDur : Word
  durMult : Word
  fHigh : Word
  fLow : Word
  pause : Word
  toneDur : Word
  toneFreq : Word
  srcTextLen : Word
  txTextLen : Word
  pktLen : Word
  fileId : Word
  progress : Word
  deriving DecidableEq, Repr

/-- The name of a register (spec/10_state.md R23). -/
inductive Reg where
  | cmd | status | msgLen | srcAddr | txAddr | seq | redundancy | sampleRate | bitDur | durMult
  | fHigh | fLow | pause | toneDur | toneFreq | srcTextLen | txTextLen | pktLen | fileId | progress
  deriving DecidableEq, Repr

/-- The name of a buffer (spec/20_memory.md R51). -/
inductive Buf where
  | msg | cksum | srcText | txText | pkt
  deriving DecidableEq, Repr

/-- One choice of the environment (spec/00_scope.md R19): the transaction the host issues, a sink's answer to the event
offered to it, or the reset input (log 1, log 15). -/
inductive Input where
  | bus (t : HbtWord)
  | answer (r : Answer)
  | reset
  deriving DecidableEq, Repr

/-- Why a step stops with a fault. -/
inductive Fault where
  /-- Raised by `sinkAnswer`: the inputs hold a sink's answer while no event is offered, so the sequencer's step is not
  enabled (spec/46_sequencer.md R173). No environment does this. Safe: the model stops (log 3). -/
  | answerNotOffered
  deriving DecidableEq, Repr

/-- Why a step refuses. -/
inductive Refusal where
  /-- Raised only by an arm of `exec` whose instruction has no meaning yet; no arm does. Safe: the model stops. -/
  | notModelled (mnemonic : String)
  deriving DecidableEq, Repr

/-- The state of FSKTX (spec/10_state.md R20). -/
structure State where
  /-- REGS. -/
  regs : Regs
  /-- BUFS: the bytes written since reset, by bus address, addresses strictly rising. An address not listed has not been
  written since reset and reads as its free draw (log 5, log 6). -/
  mem : List Host.Cell
  /-- SEQR. -/
  seqr : Seqr
  /-- The environment's choices still to happen, the next one first (the model's own field, log 1). -/
  inputs : List Input
  /-- What the last host transaction returned, if it was a read (the model's own field, log 11). -/
  hostData : Option Word
  /-- The output trace of the audio sink, oldest first (spec/46_sequencer.md R173). -/
  audioTrace : List (Event × Answer)
  /-- The output trace of the file sink, oldest first (spec/46_sequencer.md R173). -/
  fileTrace : List (Event × Answer)
  /-- Which reset the free draws of the buffers belong to (the model's own field, log 7). -/
  drawEpoch : Nat
  deriving DecidableEq, Repr

/-- STATUS after reset (spec/70_reset_and_hazards.md R231). -/
def Status.reset : Status :=
  { busy := false, done := false, err := 0, wviol := false, aerr := false, sinkOpen := false }

/-- REGS after reset, under the configuration `c` (spec/70_reset_and_hazards.md R231). -/
def Regs.resetWith (c : CfgReset) : Regs :=
  { cmd := 0, status := Status.reset, msgLen := 0, srcAddr := 0, txAddr := c.txAddr, seq := 0,
    redundancy := c.redundancy, sampleRate := c.sampleRate, bitDur := c.bitDur, durMult := 0x00030000,
    fHigh := c.fHigh, fLow := 0, pause := c.pause, toneDur := 0, toneFreq := 0, srcTextLen := 0,
    txTextLen := 0, pktLen := 0, fileId := 0, progress := 0 }

/-- The state after reset of an FSKTX whose CFG_RESET is `c` (spec/70_reset_and_hazards.md R231 to R233). -/
def State.resetWith (c : CfgReset) : State :=
  { regs := Regs.resetWith c, mem := [], seqr := .idle, inputs := [], hostData := none, audioTrace := [],
    fileTrace := [], drawEpoch := 0 }

/-- The state after reset: `State.resetWith` of this machine's CFG_RESET (log 4). FSKTX runs no program: it waits for host
transactions (spec/70_reset_and_hazards.md R234). -/
def State.reset : State := State.resetWith Config.cfgReset

end Sys2Proof.Machine
end

