-- ==== Sys2Proof/Machine/Flags.lean ====
section
/-! DEFINITION. The flags of FSKTX: every way the STATUS register changes, the word it reads as, and the error codes
(spec/10_state.md R25 to R31, spec/40_host_access.md R95 to R98, spec/60_exceptions.md R201). -/

namespace Sys2Proof.Machine

/-- The code of an error in STATUS.ERR (spec/60_exceptions.md R201). -/
def ErrCode.code : ErrCode → BitVec 4
  | .ok => 0
  | .lengthExceeded => 1
  | .addressFormat => 2
  | .seqOverflow => 3
  | .sinkFailure => 4
  | .illegalCommand => 5
  | .configInvalid => 6

/-- A one-bit field as a word. -/
def flagWord (b : Bool) : Word := (BitVec.ofBool b).setWidth 32

/-- The word STATUS reads as, BUSY | DONE<<1 | ERR<<4 | WVIOL<<8 | AERR<<9 | SINK_OPEN<<10; every other bit is 0
(spec/40_host_access.md R91, spec/10_state.md R25). -/
def Status.word (st : Status) : Word :=
  flagWord st.busy ||| flagWord st.done <<< 1 ||| st.err.setWidth 32 <<< 4 ||| flagWord st.wviol <<< 8 |||
    flagWord st.aerr <<< 9 ||| flagWord st.sinkOpen <<< 10

/-- A command is accepted: DONE <- 0, ERR <- 0 (spec/40_host_access.md R96). -/
def Status.accepted (st : Status) : Status := { st with done := false, err := 0 }

/-- A script starts: BUSY <- 1 (spec/46_sequencer.md R170). -/
def Status.started (st : Status) : Status := { st with busy := true }

/-- A command ends: ERR <- code, DONE <- 1, BUSY <- 0 (spec/40_host_access.md R95). -/
def Status.finished (st : Status) (e : ErrCode) : Status := { st with err := e.code, done := true, busy := false }

/-- SINK_OPEN <- b (spec/46_sequencer.md R174, R175). -/
def Status.withSinkOpen (st : Status) (b : Bool) : Status := { st with sinkOpen := b }

/-- A host read is refused: AERR <- 1 (spec/40_host_access.md R91, R93). -/
def Status.readRefused (st : Status) : Status := { st with aerr := true }

/-- A host write is refused: AERR <- 1, and WVIOL <- 1 if BUSY (spec/40_host_access.md R92, R94). -/
def Status.writeRefused (st : Status) : Status := { st with aerr := true, wviol := st.wviol || st.busy }

/-- A host write is discarded: WVIOL <- 1 (spec/40_host_access.md R98). -/
def Status.writeDiscarded (st : Status) : Status := { st with wviol := true }

/-- `w1c(D)` (spec/40_host_access.md R97): bit 1 clears DONE and ERR, bit 8 WVIOL, bit 9 AERR. -/
def Status.w1c (st : Status) (d : Word) : Status :=
  { st with
    done := st.done && !d.getLsbD 1
    err := if d.getLsbD 1 then 0 else st.err
    wviol := st.wviol && !d.getLsbD 8
    aerr := st.aerr && !d.getLsbD 9 }

end Sys2Proof.Machine
end

