-- ==== Sys2Proof/Machine/Ops.lean ====
section
/-! DEFINITION. The named operations every meaning is made of: buffer memory (spec/20_memory.md R51 to R68), registers by
offset (spec/10_state.md R23, spec/40_host_access.md R90), the end and the start of a command (R95, R96,
spec/46_sequencer.md R170), what a host transaction answers, and hardware reset (spec/70_reset_and_hazards.md R230). -/

namespace Sys2Proof.Machine

/-! ### Memory: (address, byte) pairs, addresses strictly rising -/

/-- The byte listed at `a`, if one is. -/
def Memory.get? : List Host.Cell → Nat → Option Byte
  | [], _ => none
  | (k, b) :: m, a => if k = a then some b else Memory.get? m a

/-- Lists the byte `v` at `a`, in place. -/
def Memory.put : List Host.Cell → Nat → Byte → List Host.Cell
  | [], a, v => [(a, v)]
  | (k, b) :: m, a, v =>
    if a < k then (a, v) :: (k, b) :: m
    else if a = k then (a, v) :: m
    else (k, b) :: Memory.put m a v

/-- Lists the bytes `vs` at `a`, `a + 1`, … -/
def Memory.putList : List Host.Cell → Nat → List Byte → List Host.Cell
  | m, _, [] => m
  | m, a, v :: vs => Memory.putList (Memory.put m a v) (a + 1) vs

/-- The canonical form: addresses strictly rising. What an unlisted address holds is no value ("not written since reset"),
so no entry can equal it (log 6). -/
def Memory.wf : List Host.Cell → Bool
  | [] => true
  | [_] => true
  | (k, _) :: (k', b') :: m => decide (k < k') && Memory.wf ((k', b') :: m)

/-- What an address nothing has written since reset reads as: its free draw (spec/20_memory.md R69, log 5). -/
def unwrittenByte (epoch a : Nat) : Byte := Config.resetByte epoch a

/-- The byte at bus address `a` of a buffer. -/
def State.readByte (s : State) (a : Nat) : Byte :=
  (Memory.get? s.mem a).getD (unwrittenByte s.drawEpoch a)

/-! ### Buffers -/

/-- The first bus address of a buffer (spec/20_memory.md R51). -/
def Buf.base : Buf → Nat
  | .msg => 0x00010000
  | .cksum => 0x00020000
  | .srcText => 0x00030000
  | .txText => 0x00030010
  | .pkt => 0x00040000

/-- The size of a buffer in bytes (spec/20_memory.md R51). -/
def Buf.size : Buf → Nat
  | .msg => Config.msgCap
  | .cksum => Config.cksumLen
  | .srcText => Config.textCap
  | .txText => Config.textCap
  | .pkt => Config.pktCap

/-- `a` lies in buffer `X`. -/
def Buf.holds (X : Buf) (a : Nat) : Bool := decide (X.base ≤ a) && decide (a < X.base + X.size)

/-- `bufAt(A)`: the buffer and the offset at bus address `a` (spec/40_host_access.md R90). -/
def bufAt (a : Word) : Option (Buf × Nat) :=
  ([.msg, .cksum, .srcText, .txText, .pkt].find? fun X => Buf.holds X a.toNat).map fun X => (X, a.toNat - X.base)

/-- `writableBuf(X)`: the host may write it (spec/40_host_access.md R90). -/
def writableBuf : Buf → Bool
  | .msg => true
  | .cksum => false
  | .srcText => true
  | .txText => true
  | .pkt => false

/-- `MemRead(X, off, n)` (spec/20_memory.md R68). -/
def memRead (X : Buf) (off n : Nat) (s : State) : List Byte :=
  (List.range n).map fun i => s.readByte (X.base + off + i)

/-- `MemWrite(X, off, len(v), v)` (spec/20_memory.md R68). -/
def memWrite (X : Buf) (off : Nat) (v : List Byte) (s : State) : State :=
  { s with mem := Memory.putList s.mem (X.base + off) v }

/-! ### Registers -/

/-- The register map: offset and register (spec/10_state.md R23). -/
def regMap : List (Nat × Reg) :=
  [(0x00, .cmd), (0x04, .status), (0x08, .msgLen), (0x0C, .srcAddr), (0x10, .txAddr), (0x14, .seq),
    (0x18, .redundancy), (0x1C, .sampleRate), (0x20, .bitDur), (0x24, .durMult)] ++
  [(0x28, .fHigh), (0x2C, .fLow), (0x30, .pause), (0x34, .toneDur), (0x38, .toneFreq), (0x3C, .srcTextLen),
    (0x40, .txTextLen), (0x44, .pktLen), (0x48, .fileId), (0x4C, .progress)]

/-- `regAt(A)` (spec/40_host_access.md R90). -/
def regAt (a : Word) : Option Reg := regMap.lookup a.toNat

/-- `writableReg(r)`: every register except PKT_LEN and PROGRESS (spec/40_host_access.md R90). -/
def writableReg (r : Reg) : Bool := !(r == .pktLen || r == .progress)

/-- `REG[r]`, the value RD32 returns (spec/40_host_access.md R91). -/
def Regs.get (g : Regs) : Reg → Word
  | .cmd => g.cmd
  | .status => g.status.word
  | .msgLen => g.msgLen
  | .srcAddr => g.srcAddr
  | .txAddr => g.txAddr
  | .seq => g.seq
  | .redundancy => g.redundancy
  | .sampleRate => g.sampleRate
  | .bitDur => g.bitDur
  | .durMult => g.durMult
  | .fHigh => g.fHigh
  | .fLow => g.fLow
  | .pause => g.pause
  | .toneDur => g.toneDur
  | .toneFreq => g.toneFreq
  | .srcTextLen => g.srcTextLen
  | .txTextLen => g.txTextLen
  | .pktLen => g.pktLen
  | .fileId => g.fileId
  | .progress => g.progress

/-- `REG[r] <- v` for a register that stores the word written. STATUS stores none: it changes by the operations of
Flags.lean only. -/
def Regs.set (g : Regs) (r : Reg) (v : Word) : Regs :=
  match r with
  | .cmd => { g with cmd := v }
  | .status => g
  | .msgLen => { g with msgLen := v }
  | .srcAddr => { g with srcAddr := v }
  | .txAddr => { g with txAddr := v }
  | .seq => { g with seq := v }
  | .redundancy => { g with redundancy := v }
  | .sampleRate => { g with sampleRate := v }
  | .bitDur => { g with bitDur := v }
  | .durMult => { g with durMult := v }
  | .fHigh => { g with fHigh := v }
  | .fLow => { g with fLow := v }
  | .pause => { g with pause := v }
  | .toneDur => { g with toneDur := v }
  | .toneFreq => { g with toneFreq := v }
  | .srcTextLen => { g with srcTextLen := v }
  | .txTextLen => { g with txTextLen := v }
  | .pktLen => { g with pktLen := v }
  | .fileId => { g with fileId := v }
  | .progress => { g with progress := v }

/-- `REG[r] <- v`. -/
def setReg (r : Reg) (v : Word) (s : State) : State := { s with regs := s.regs.set r v }

/-- STATUS <- st. -/
def setStatus (st : Status) (s : State) : State := { s with regs := { s.regs with status := st } }

/-! ### The end and the start of a command -/

/-- `finish(code)`, which is also `raise`: taking an error. It saves nothing beyond ERR, changes no mode and vectors nowhere
(spec/40_host_access.md R95, spec/60_exceptions.md R203, R214). -/
def finish (e : ErrCode) (s : State) : State :=
  { setStatus (s.regs.status.finished e) s with seqr := .idle }

/-- The return from an error: there is no return-from-trap, the host clears DONE and ERR by `w1c(D)`
(spec/60_exceptions.md R215, spec/40_host_access.md R97). -/
def clearStatus (d : Word) (s : State) : State := setStatus (s.regs.status.w1c d) s

/-- The first part of `accept(w)`: CMD <- w, DONE <- 0, ERR <- 0, PROGRESS <- 0 (spec/40_host_access.md R96). -/
def beginCommand (w : Word) (s : State) : State :=
  { s with regs := { s.regs with cmd := w, status := s.regs.status.accepted, progress := 0 } }

/-- `start(script)` (spec/46_sequencer.md R170). -/
def start (script : List Event) (s : State) : State :=
  { setStatus s.regs.status.started s with seqr := .run script false false }

/-! ### What a host transaction answers -/

/-- A read returns `v`. -/
def respond (v : Word) (s : State) : State := { s with hostData := some v }

/-- A write returns nothing (log 11). -/
def noResponse (s : State) : State := { s with hostData := none }

/-- A refused read: AERR <- 1, returns 0 (spec/20_memory.md R56 to R58). -/
def refuseRead (s : State) : State := respond 0 (setStatus s.regs.status.readRefused s)

/-- A refused write: AERR <- 1, WVIOL <- 1 if BUSY, no other effect (spec/40_host_access.md R92, R94). -/
def refuseWrite (s : State) : State := noResponse (setStatus s.regs.status.writeRefused s)

/-- A discarded write: WVIOL <- 1, no other effect (spec/40_host_access.md R98). -/
def discardWrite (s : State) : State := noResponse (setStatus s.regs.status.writeDiscarded s)

/-! ### The environment -/

/-- The next choice of the environment, taken off the inputs (spec/00_scope.md R19, log 1). -/
def takeInput (s : State) : Option (Input × State) :=
  match s.inputs with
  | [] => none
  | i :: rest => some (i, { s with inputs := rest })

/-- The reset input: the reset state, with fresh draws for the buffers; the environment goes on
(spec/70_reset_and_hazards.md R230 to R233, log 15). -/
def hardReset (c : CfgReset) (s : State) : State :=
  { State.resetWith c with inputs := s.inputs, drawEpoch := s.drawEpoch + 1 }

end Sys2Proof.Machine
end

