-- ==== Sys2Proof/Machine/Operands.lean ====
section
/-! DEFINITION. The operands of the commands, all of them registers and buffers (spec/30_encoding.md R72, R78), the exact
arithmetic on them (spec/00_scope.md R12, spec/44_tone.md R149, R152, spec/46_sequencer.md R183), and the byte forms of
integers (spec/00_scope.md R11). -/

namespace Sys2Proof.Machine

/-! ### Byte forms -/

/-- `be16(v)`, of the low 16 bits of `v`; every caller has checked the range (spec/60_exceptions.md R200). -/
def be16 (v : Nat) : List Byte := [BitVec.ofNat 8 (v / 256), BitVec.ofNat 8 v]

/-- `be32(v)` (spec/00_scope.md R11). -/
def be32 (v : Word) : List Byte :=
  [v.extractLsb' 24 8, v.extractLsb' 16 8, v.extractLsb' 8 8, v.extractLsb' 0 8]

/-- The `n` low bytes of `v`, least significant first: `le64` and `le32` (spec/41_checksum.md R107, R113). -/
def leBytes (n v : Nat) : List Byte := (List.range n).map fun i => BitVec.ofNat 8 (v >>> (8 * i))

/-! ### Exact rounding -/

/-- `roundHE(num / den)`: to the nearest natural, a tie to the even one, exactly (spec/44_tone.md R152). The rational is
given by its numerator and denominator (log 10). -/
def roundHE (num den : Nat) : Nat :=
  let n := num / den
  let r := num % den
  if 2 * r < den then n
  else if den < 2 * r then n + 1
  else if n % 2 = 0 then n else n + 1

/-- `ceil(num / den)`, exactly, for `den ≠ 0` (spec/46_sequencer.md R183). -/
def ceilDiv (num den : Nat) : Nat := (num + den - 1) / den

/-! ### Operands -/

/-- MSG_LEN = L as a natural (spec/30_encoding.md R78). -/
abbrev State.msgLength (s : State) : Nat := s.regs.msgLen.toNat

/-- The message MSG[0..L) (spec/10_state.md R32). -/
def State.message (s : State) : List Byte := memRead .msg 0 s.msgLength s

/-- CKSUM[0..32) as it stands (spec/20_memory.md R53). -/
def State.storedChecksum (s : State) : List Byte := memRead .cksum 0 Config.cksumLen s

/-- The packet PKT[0..PKT_LEN) (spec/20_memory.md R55). -/
def State.storedPacket (s : State) : List Byte := memRead .pkt 0 s.regs.pktLen.toNat s

/-- The text buffer SEL picks (spec/42_address.md R120). -/
def textBuf : AddrSel → Buf
  | .src => .srcText
  | .tx => .txText

/-- The text length SEL picks (spec/42_address.md R120). -/
def State.textLength (s : State) : AddrSel → Nat
  | .src => s.regs.srcTextLen.toNat
  | .tx => s.regs.txTextLen.toNat

/-- The address text SEL picks (spec/42_address.md R120). -/
def State.addrText (s : State) (sel : AddrSel) : List Byte := memRead (textBuf sel) 0 (s.textLength sel) s

/-- The address register SEL picks (spec/42_address.md R120). -/
def addrReg : AddrSel → Reg
  | .src => .srcAddr
  | .tx => .txAddr

/-- REDUNDANCY = R as a natural. -/
abbrev State.redundancyCount (s : State) : Nat := s.regs.redundancy.toNat

/-- SAMPLE_RATE as a natural. -/
abbrev State.rate (s : State) : Nat := s.regs.sampleRate.toNat

/-- `nSamples(d)`: roundHE(SAMPLE_RATE · d · DUR_MULT / 2^32) on naturals (spec/44_tone.md R149). -/
def State.nSamples (s : State) (d : Word) : Nat :=
  roundHE (s.rate * d.toNat * s.regs.durMult.toNat) (2 ^ 32)

/-- N_BIT (spec/44_tone.md R150). -/
def State.nBit (s : State) : Nat := s.nSamples s.regs.bitDur

/-- P_PAUSE = ceil(PAUSE / BIT_DUR) on the raw values (spec/46_sequencer.md R183). -/
def State.pPause (s : State) : Nat := ceilDiv s.regs.pause.toNat s.regs.bitDur.toNat

end Sys2Proof.Machine
end

