-- ==== Sys2Proof/Machine/Address.lean ====
section
/-! DEFINITION. Address parsing: the dotted-decimal grammar and PARSE_ADDR (spec/42_address.md). -/

namespace Sys2Proof.Machine

/-- The byte '.', 0x2E (spec/42_address.md R121). -/
def dot : Byte := 0x2E

/-- The parts of a text between its dots; a text without a dot is one part. -/
def splitDots : List Byte → List (List Byte)
  | [] => [[]]
  | b :: bs =>
    if b = dot then [] :: splitDots bs
    else
      match splitDots bs with
      | [] => [[b]]
      | part :: parts => (b :: part) :: parts

/-- An ASCII digit, 0x30 to 0x39 (spec/42_address.md R121). -/
def isDigit (b : Byte) : Bool := decide (0x30 ≤ b.toNat) && decide (b.toNat ≤ 0x39)

/-- The decimal value of a digit string (spec/42_address.md R121). -/
def decimalValue (ds : List Byte) : Nat := ds.foldl (fun v b => 10 * v + (b.toNat - 0x30)) 0

/-- One segment: 1 to 3 digits of value at most 255 (spec/42_address.md R121). -/
def parseSegment (ds : List Byte) : Option Nat :=
  if 1 ≤ ds.length ∧ ds.length ≤ 3 ∧ ds.all isDigit ∧ decimalValue ds ≤ 255 then some (decimalValue ds) else none

/-- The four values of four segments, if every one is legal. -/
def parseSegments : List (List Byte) → Option (Nat × Nat × Nat × Nat)
  | [d1, d2, d3, d4] =>
    match parseSegment d1, parseSegment d2, parseSegment d3, parseSegment d4 with
    | some v1, some v2, some v3, some v4 => some (v1, v2, v3, v4)
    | _, _, _, _ => none
  | _ => none

/-- `parseDotted(s)` (spec/42_address.md R121). -/
def parseDotted (s : List Byte) : Option (Nat × Nat × Nat × Nat) := parseSegments (splitDots s)

/-- `a<<24 | b<<16 | c<<8 | d` (spec/42_address.md R120, R122). -/
def addressWord (v : Nat × Nat × Nat × Nat) : Word :=
  match v with
  | (a, b, c, d) =>
    BitVec.ofNat 32 a <<< 24 ||| BitVec.ofNat 32 b <<< 16 ||| BitVec.ofNat 32 c <<< 8 ||| BitVec.ofNat 32 d

/-- The text length SEL picks exceeds the text buffer (spec/42_address.md R120). -/
abbrev State.textExceeded (s : State) (sel : AddrSel) : Prop := Config.textCap < s.textLength sel

/-- The effect of PARSE_ADDR (spec/42_address.md R120). -/
def parseAddr (sel : AddrSel) (s : State) : State :=
  if s.textExceeded sel then finish .addressFormat s
  else
    match parseDotted (s.addrText sel) with
    | none => finish .addressFormat s
    | some v => finish .ok (setReg (addrReg sel) (addressWord v) s)

/-- PARSE_ADDR, in its acceptance step (spec/42_address.md R120). -/
def execParseAddr (sel : AddrSel) (s : State) : Host.Outcome State Fault Refusal := .next (parseAddr sel s)

end Sys2Proof.Machine
end

