-- ==== Sys2Proof/Machine/Checksum.lean ====
section
/-! DEFINITION. The checksum unit: MD5, its lowercase hex form, and DIGEST (spec/41_checksum.md). The text of MD5 is the
spec's from general knowledge (log 14). -/

namespace Sys2Proof.Machine

/-- The four chaining words of MD5 (spec/41_checksum.md R112). -/
abbrev Md5Words := Word × Word × Word × Word

/-- The constants K[i] (spec/41_checksum.md R109). -/
def md5K : List Word :=
  [0xd76aa478, 0xe8c7b756, 0x242070db, 0xc1bdceee, 0xf57c0faf, 0x4787c62a, 0xa8304613, 0xfd469501,
    0x698098d8, 0x8b44f7af, 0xffff5bb1, 0x895cd7be, 0x6b901122, 0xfd987193, 0xa679438e, 0x49b40821] ++
  [0xf61e2562, 0xc040b340, 0x265e5a51, 0xe9b6c7aa, 0xd62f105d, 0x02441453, 0xd8a1e681, 0xe7d3fbc8,
    0x21e1cde6, 0xc33707d6, 0xf4d50d87, 0x455a14ed, 0xa9e3e905, 0xfcefa3f8, 0x676f02d9, 0x8d2a4c8a] ++
  [0xfffa3942, 0x8771f681, 0x6d9d6122, 0xfde5380c, 0xa4beea44, 0x4bdecfa9, 0xf6bb4b60, 0xbebfbc70,
    0x289b7ec6, 0xeaa127fa, 0xd4ef3085, 0x04881d05, 0xd9d4d039, 0xe6db99e5, 0x1fa27cf8, 0xc4ac5665] ++
  [0xf4292244, 0x432aff97, 0xab9423a7, 0xfc93a039, 0x655b59c3, 0x8f0ccc92, 0xffeff47d, 0x85845dd1,
    0x6fa87e4f, 0xfe2ce6e0, 0xa3014314, 0x4e0811a1, 0xf7537e82, 0xbd3af235, 0x2ad7d2bb, 0xeb86d391]

/-- The rotation amounts of a round, for i mod 4 = 0, 1, 2, 3 (spec/41_checksum.md R110). -/
def md5Rotations (round : Nat) : List Nat :=
  match round with
  | 0 => [7, 12, 17, 22]
  | 1 => [5, 9, 14, 20]
  | 2 => [4, 11, 16, 23]
  | _ => [6, 10, 15, 21]

/-- The round function of step `i` (spec/41_checksum.md R111). -/
def md5F (i : Nat) (b c d : Word) : Word :=
  match i / 16 with
  | 0 => (b &&& c) ||| (~~~b &&& d)
  | 1 => (d &&& b) ||| (~~~d &&& c)
  | 2 => b ^^^ c ^^^ d
  | _ => c ^^^ (b ||| ~~~d)

/-- The message-word index `g` of step `i` (spec/41_checksum.md R111). -/
def md5G (i : Nat) : Nat :=
  match i / 16 with
  | 0 => i
  | 1 => (5 * i + 1) % 16
  | 2 => (3 * i + 5) % 16
  | _ => 7 * i % 16

/-- Step `i` of the compression of a block with words `M` (spec/41_checksum.md R112). -/
def md5Step (M : List Word) (h : Md5Words) (i : Nat) : Md5Words :=
  match h with
  | (a, b, c, d) =>
    let f := md5F i b c d + a + md5K.getD i 0 + M.getD (md5G i) 0
    (d, b + f.rotateLeft ((md5Rotations (i / 16)).getD (i % 4) 0), b, c)

/-- Four bytes as a little-endian word (spec/41_checksum.md R107). -/
def leWord (bs : List Byte) : Word :=
  (bs.getD 0 0).setWidth 32 ||| (bs.getD 1 0).setWidth 32 <<< 8 ||| (bs.getD 2 0).setWidth 32 <<< 16 |||
    (bs.getD 3 0).setWidth 32 <<< 24

/-- The sixteen words M[j] of a 64-byte block (spec/41_checksum.md R107). -/
def md5BlockWords (block : List Byte) : List Word := (List.range 16).map fun j => leWord (block.drop (4 * j))

/-- The compression of one block (spec/41_checksum.md R112). -/
def md5Compress (h : Md5Words) (block : List Byte) : Md5Words :=
  match h, (List.range 64).foldl (md5Step (md5BlockWords block)) h with
  | (a0, b0, c0, d0), (a, b, c, d) => (a0 + a, b0 + b, c0 + c, d0 + d)

/-- The compression of the first `n` 64-byte blocks of `bs`, in order (spec/41_checksum.md R112). -/
def md5Blocks : Nat → Md5Words → List Byte → Md5Words
  | 0, h, _ => h
  | n + 1, h, bs => md5Blocks n (md5Compress h (bs.take 64)) (bs.drop 64)

/-- a0, b0, c0, d0 before the first block (spec/41_checksum.md R112). -/
def md5Init : Md5Words := (0x67452301, 0xefcdab89, 0x98badcfe, 0x10325476)

/-- The number of zero bytes of the padding: the least k with (n + 1 + k) mod 64 = 56 (spec/41_checksum.md R107). -/
def md5PadZeros (n : Nat) : Nat := (119 - n % 64) % 64

/-- The padded message m' (spec/41_checksum.md R107). -/
def md5Pad (m : List Byte) : List Byte :=
  m ++ [0x80] ++ List.replicate (md5PadZeros m.length) 0x00 ++ leBytes 8 (8 * m.length)

/-- `md5(m)`, 16 bytes (spec/41_checksum.md R106, R113). -/
def md5 (m : List Byte) : List Byte :=
  match md5Blocks ((md5Pad m).length / 64) md5Init (md5Pad m) with
  | (a0, b0, c0, d0) => leBytes 4 a0.toNat ++ leBytes 4 b0.toNat ++ leBytes 4 c0.toNat ++ leBytes 4 d0.toNat

/-- `hx(v)`: the ASCII lowercase hex digit of a nibble (spec/41_checksum.md R108). -/
def hexDigit (v : Nat) : Byte := if v ≤ 9 then BitVec.ofNat 8 (0x30 + v) else BitVec.ofNat 8 (0x61 + (v - 10))

/-- `hexlower(d)`: the high nibble of each byte first, bytes in order (spec/41_checksum.md R108). -/
def hexlower (d : List Byte) : List Byte :=
  d.flatMap fun b => [hexDigit (b.toNat / 16), hexDigit (b.toNat % 16)]

/-- The checksum of a message as CKSUM holds it (spec/41_checksum.md R105). -/
def checksumText (m : List Byte) : List Byte := hexlower (md5 m)

/-- CKSUM[0..32) <- the checksum of the message (DIGEST, SEND and SAVE; spec/20_memory.md R53). -/
def storeChecksum (s : State) : State := memWrite .cksum 0 (checksumText s.message) s

/-- MSG_LEN does not fit the two-byte length field (spec/60_exceptions.md R207). -/
abbrev State.lengthExceeded (s : State) : Prop := Config.msgCap < s.msgLength

/-- The effect of DIGEST (spec/41_checksum.md R105). -/
def digest (s : State) : State :=
  if s.lengthExceeded then finish .lengthExceeded s
  else finish .ok (storeChecksum s)

/-- DIGEST, in its acceptance step (spec/41_checksum.md R105). -/
def execDigest (s : State) : Host.Outcome State Fault Refusal := .next (digest s)

end Sys2Proof.Machine
end

