-- ==== Sys2Proof/Machine/Framer.lean ====
section
/-! DEFINITION. The packet framer: `frame`, `build_all` and BUILD_PACKET (spec/43_framer.md). -/

namespace Sys2Proof.Machine

/-- `frame(src, tx, seq, ck, pl)`: preamble, addresses, sequence number, length, reserved bytes, checksum, payload
(spec/43_framer.md R131 to R139). Callers have checked `seq ≤ 255` and `pl.length ≤ 65535`. -/
def frame (src tx : Word) (seq : Nat) (ck pl : List Byte) : List Byte :=
  List.replicate 32 0x55 ++ be32 src ++ be32 tx ++ [BitVec.ofNat 8 seq] ++ be16 pl.length ++
    List.replicate 8 0x00 ++ ck ++ pl

/-- `build_all(src, tx, R, ck, pl)`: sequence numbers 1 to R (spec/43_framer.md R140). -/
def buildAll (src tx : Word) (count : Nat) (ck pl : List Byte) : List (List Byte) :=
  (List.range count).map fun r => frame src tx (r + 1) ck pl

/-- SEQ does not fit the one-byte sequence number (spec/60_exceptions.md R209). -/
abbrev State.seqExceeded (s : State) : Prop := Config.maxSeq < s.regs.seq.toNat

/-- The packet BUILD_PACKET frames (spec/43_framer.md R130). -/
def State.framedPacket (s : State) : List Byte :=
  frame s.regs.srcAddr s.regs.txAddr s.regs.seq.toNat s.storedChecksum s.message

/-- The effect of BUILD_PACKET (spec/43_framer.md R130). -/
def buildPacket (s : State) : State :=
  if s.lengthExceeded then finish .lengthExceeded s
  else if s.seqExceeded then finish .seqOverflow s
  else
    finish .ok
      (setReg .pktLen (BitVec.ofNat 32 (Config.headerLen + s.msgLength)) (memWrite .pkt 0 s.framedPacket s))

/-- BUILD_PACKET, in its acceptance step (spec/43_framer.md R130). -/
def execBuildPacket (s : State) : Host.Outcome State Fault Refusal := .next (buildPacket s)

end Sys2Proof.Machine
end

