-- ==== Sys2Proof/Machine/Tone.lean ====
section
/-! DEFINITION. The tone synthesizer: the sample function, tone buffers and GEN_TONE (spec/44_tone.md). -/

namespace Sys2Proof.Machine

/-- `0s`, the zero sample (spec/00_scope.md R8, log 8). -/
def zeroSample : Sample := ⟨Config.zeroCode⟩

/-- TONE_FN(f, sr, k) (spec/44_tone.md R147, R148): the zero sample at frequency 0 and, since the phase is 0 at k = 0, at
k = 0 (DEDUCED, log 9); anywhere else uninterpreted. -/
def toneFn (f : Q16) (sr k : Nat) : Sample :=
  if f.raw = 0 ∨ k = 0 then zeroSample else ⟨Config.toneCode f.raw sr k⟩

/-- `tone(f, n)` at sample rate `sr` (spec/44_tone.md R146). Every buffer starts at k = 0 (R154). -/
def tone (sr : Nat) (f : Q16) (n : Nat) : List Sample := (List.range n).map fun k => toneFn f sr k

/-- The silent buffer `tone(0, n)` (spec/44_tone.md R147). -/
def silence (sr n : Nat) : List Sample := tone sr ⟨0⟩ n

/-- The script of GEN_TONE (spec/44_tone.md R145). -/
def State.toneScript (s : State) : List Event :=
  [.aOpen, .aPlay (tone s.rate ⟨s.regs.toneFreq⟩ (s.nSamples s.regs.toneDur)) s.rate, .aClose]

/-- The effect of GEN_TONE at its acceptance (spec/44_tone.md R145). -/
def genTone (s : State) : State := start s.toneScript s

/-- GEN_TONE, in its acceptance step (spec/44_tone.md R145). -/
def execGenTone (s : State) : Host.Outcome State Fault Refusal := .next (genTone s)

end Sys2Proof.Machine
end

