-- ==== Sys2Proof/Machine/Modulator.lean ====
section
/-! DEFINITION. The FSK modulator: bit expansion, bit-to-tone mapping and MODULATE (spec/45_modulator.md). -/

namespace Sys2Proof.Machine

/-- The bits of one byte, bit 7 first (spec/45_modulator.md R160). -/
def byteBits (b : Byte) : List Bool := (List.range 8).map fun j => b.getLsbD (7 - j)

/-- `bits(p)`: bytes in order, each most significant bit first (spec/45_modulator.md R160). -/
def bits (p : List Byte) : List Bool := p.flatMap byteBits

/-- `bitTone(b)` (spec/45_modulator.md R161). -/
def State.bitTone (s : State) (b : Bool) : List Sample :=
  tone s.rate ⟨if b then s.regs.fHigh else s.regs.fLow⟩ s.nBit

/-- `modulate(p)` (spec/45_modulator.md R162). -/
def State.modulatePacket (s : State) (p : List Byte) : List (List Sample) := (bits p).map s.bitTone

/-- The APlay events of a packet (spec/45_modulator.md R163). -/
def State.playPacket (s : State) (p : List Byte) : List Event :=
  (s.modulatePacket p).map fun t => .aPlay t s.rate

/-- The script of MODULATE (spec/45_modulator.md R163). -/
def State.modulateScript (s : State) : List Event := [.aOpen] ++ s.playPacket s.storedPacket ++ [.aClose]

/-- The effect of MODULATE at its acceptance (spec/45_modulator.md R163). -/
def modulate (s : State) : State := start s.modulateScript s

/-- MODULATE, in its acceptance step (spec/45_modulator.md R163). -/
def execModulate (s : State) : Host.Outcome State Fault Refusal := .next (modulate s)

end Sys2Proof.Machine
end

