-- ==== Sys2Proof/Machine/Sequencer.lean ====
section
/-! DEFINITION. The transmission assembly sequencer: SEND, SAVE and the sink handshake (spec/46_sequencer.md). -/

namespace Sys2Proof.Machine

/-! ### The repetition set -/

/-- REDUNDANCY exceeds 255 (spec/60_exceptions.md R209). -/
abbrev State.redundancyExceeded (s : State) : Prop := Config.maxRedundancy < s.redundancyCount

/-- `build_all(...)` of SEND and SAVE (spec/43_framer.md R140). -/
def State.packets (s : State) : List (List Byte) :=
  buildAll s.regs.srcAddr s.regs.txAddr s.redundancyCount (checksumText s.message) s.message

/-! ### SEND -/

/-- What SEND offers for one packet: its tones, then the live pause (spec/46_sequencer.md R179, R180). -/
def State.sendPacket (s : State) (p : List Byte) : List Event := s.playPacket p ++ [.aPause ⟨s.regs.pause⟩]

/-- `sendScript(m, ck, R)` (spec/46_sequencer.md R179). -/
def State.sendScript (s : State) : List Event := [.aOpen] ++ s.packets.flatMap s.sendPacket ++ [.aClose]

/-- The effect of SEND at its acceptance (spec/46_sequencer.md R178). -/
def send (s : State) : State :=
  if s.lengthExceeded then finish .lengthExceeded s
  else if s.redundancyExceeded then finish .seqOverflow s
  else start s.sendScript (storeChecksum s)

/-- SEND, in its acceptance step (spec/46_sequencer.md R178). -/
def execSend (s : State) : Host.Outcome State Fault Refusal := .next (send s)

/-! ### SAVE -/

/-- The samples of one packet of SAVE: its tones, then P_PAUSE silent buffers (spec/46_sequencer.md R182). -/
def State.savePacket (s : State) (p : List Byte) : List Sample :=
  (s.modulatePacket p).flatten ++ (List.replicate s.pPause (silence s.rate s.nBit)).flatten

/-- `assemble(m, ck, R)` (spec/46_sequencer.md R182). -/
def State.assemble (s : State) : List Sample := s.packets.flatMap s.savePacket

/-- The script of SAVE (spec/46_sequencer.md R184). -/
def State.saveScript (s : State) : List Event := [.fWrite s.regs.fileId s.assemble s.rate]

/-- The effect of SAVE at its acceptance (spec/46_sequencer.md R181). -/
def save (s : State) : State :=
  if s.lengthExceeded then finish .lengthExceeded s
  else if s.redundancyExceeded then finish .seqOverflow s
  else if s.regs.bitDur = 0 then finish .configInvalid s
  else start s.saveScript (storeChecksum s)

/-- SAVE, in its acceptance step (spec/46_sequencer.md R181). -/
def execSave (s : State) : Host.Outcome State Fault Refusal := .next (save s)

/-! ### The sink handshake -/

/-- The sink an event is offered to (spec/46_sequencer.md R173). -/
def Event.sink : Event → Sink
  | .aOpen => .audio
  | .aPlay _ _ => .audio
  | .aPause _ => .audio
  | .aClose => .audio
  | .fWrite _ _ _ => .file

/-- The pair (e, r) is appended to the output trace of e's sink (spec/46_sequencer.md R173). -/
def recordAnswer (e : Event) (r : Answer) (s : State) : State :=
  match e.sink with
  | .audio => { s with audioTrace := s.audioTrace ++ [(e, r)] }
  | .file => { s with fileTrace := s.fileTrace ++ [(e, r)] }

/-- SINK_OPEN <- b. -/
def setSinkOpen (b : Bool) (s : State) : State := setStatus (s.regs.status.withSinkOpen b) s

/-- `opened` after an Ok answer to `e` (spec/46_sequencer.md R174). -/
def openedAfterOk (e : Event) (opened : Bool) : Bool :=
  match e with
  | .aOpen => true
  | .aPlay _ _ => opened
  | .aPause _ => opened
  | .aClose => false
  | .fWrite _ _ _ => opened

/-- STATUS.SINK_OPEN after an Ok answer to `e` (spec/46_sequencer.md R174). -/
def sinkOpenAfterOk (e : Event) (s : State) : State :=
  match e with
  | .aOpen => setSinkOpen true s
  | .aPlay _ _ => s
  | .aPause _ => s
  | .aClose => setSinkOpen false s
  | .fWrite _ _ _ => s

/-- PROGRESS <- PROGRESS + 1 (spec/46_sequencer.md R174; it never wraps, spec/10_state.md R47, log 22). -/
def advanceProgress (s : State) : State := setReg .progress (s.regs.progress + 1) s

/-- The Ok answer to `e` (spec/46_sequencer.md R174). -/
def answerOk (e : Event) (rest : List Event) (opened aborting : Bool) (s : State) : State :=
  if aborting then finish .sinkFailure (sinkOpenAfterOk e s)
  else
    match rest with
    | [] => finish .ok (advanceProgress (sinkOpenAfterOk e s))
    | e' :: rest' =>
      { advanceProgress (sinkOpenAfterOk e s) with seqr := .run (e' :: rest') (openedAfterOk e opened) false }

/-- The Fail answer to `e` (spec/46_sequencer.md R175): an acquired audio sink is released before the error is reported. -/
def answerFail (e : Event) (aborting : Bool) (s : State) : State :=
  if aborting then finish .sinkFailure (setSinkOpen false s)
  else
    match e with
    | .aOpen => finish .sinkFailure s
    | .aPlay _ _ => { s with seqr := .run [.aClose] true true }
    | .aPause _ => { s with seqr := .run [.aClose] true true }
    | .aClose => finish .sinkFailure (setSinkOpen false s)
    | .fWrite _ _ _ => finish .sinkFailure s

/-- The sequencer's step: the head event `e` is answered `r` (spec/46_sequencer.md R173 to R175). -/
def answered (e : Event) (rest : List Event) (opened aborting : Bool) (r : Answer) (s : State) : State :=
  match r with
  | .ok => answerOk e rest opened aborting (recordAnswer e r s)
  | .fail => answerFail e aborting (recordAnswer e r s)

/-- A sink answers `r`. The step is enabled exactly when an event is offered (spec/46_sequencer.md R173); an answer at any
other time is a fault (log 3). -/
def sinkAnswer (r : Answer) (s : State) : Host.Outcome State Fault Refusal :=
  match s.seqr with
  | .idle => .fault .answerNotOffered
  | .run [] _ _ => .fault .answerNotOffered
  | .run (e :: rest) opened aborting => .next (answered e rest opened aborting r s)

end Sys2Proof.Machine
end

