-- ==== Sys2Proof/Machine/HostAccess.lean ====
section
/-! DEFINITION. Host access: command acceptance and the four host bus transactions (spec/40_host_access.md). -/

namespace Sys2Proof.Machine

/-- The effect of a command once its word is accepted: the arms of `accept(w)` (spec/40_host_access.md R96). -/
def runCommand : Cmd → State → State
  | .digest, s => digest s
  | .parseAddr sel, s => parseAddr sel s
  | .buildPacket, s => buildPacket s
  | .genTone, s => genTone s
  | .modulate, s => modulate s
  | .send, s => send s
  | .save, s => save s

/-- `accept(w)` (spec/40_host_access.md R96); an illegal word ends in ILLEGAL_COMMAND (spec/60_exceptions.md R206). -/
def accept (w : Word) (s : State) : State :=
  match decodeCmdw w with
  | .error _ => finish .illegalCommand (beginCommand w s)
  | .ok c => runCommand c (beginCommand w s)

/-- The effect of RD32 (spec/40_host_access.md R91). -/
def rd32 (addr : Word) (s : State) : State :=
  match regAt addr with
  | none => refuseRead s
  | some r => respond (s.regs.get r) s

/-- RD32: read a register; `data` is ignored (spec/40_host_access.md R91). -/
def execRd32 (addr _data : Word) (s : State) : Host.Outcome State Fault Refusal := .next (rd32 addr s)

/-- A WR32 that is neither refused nor discarded (spec/40_host_access.md R92). -/
def writeReg (r : Reg) (data : Word) (s : State) : State :=
  match r with
  | .cmd => accept data s
  | .status => clearStatus data s
  | r => setReg r data s

/-- The effect of WR32 (spec/40_host_access.md R92). -/
def wr32 (addr data : Word) (s : State) : State :=
  match regAt addr with
  | none => refuseWrite s
  | some r =>
    if !writableReg r then refuseWrite s
    else if s.regs.status.busy then discardWrite s
    else writeReg r data (noResponse s)

/-- WR32: write a register (spec/40_host_access.md R92). -/
def execWr32 (addr data : Word) (s : State) : Host.Outcome State Fault Refusal := .next (wr32 addr data s)

/-- The effect of RD8 (spec/40_host_access.md R93). -/
def rd8 (addr : Word) (s : State) : State :=
  match bufAt addr with
  | none => refuseRead s
  | some (X, o) => respond ((s.readByte (X.base + o)).setWidth 32) s

/-- RD8: read a buffer byte, zero-extended; `data` is ignored (spec/40_host_access.md R93). -/
def execRd8 (addr _data : Word) (s : State) : Host.Outcome State Fault Refusal := .next (rd8 addr s)

/-- The effect of WR8: only D[7:0] is used (spec/40_host_access.md R94). -/
def wr8 (addr data : Word) (s : State) : State :=
  match bufAt addr with
  | none => refuseWrite s
  | some (X, o) =>
    if !writableBuf X then refuseWrite s
    else if s.regs.status.busy then discardWrite s
    else memWrite X o [data.extractLsb' 0 8] (noResponse s)

/-- WR8: write a buffer byte (spec/40_host_access.md R94). -/
def execWr8 (addr data : Word) (s : State) : Host.Outcome State Fault Refusal := .next (wr8 addr data s)

end Sys2Proof.Machine
end

