-- ==== Sys2Proof/Machine/Dispatch.lean ====
section
/-! DEFINITION. The meaning of every instruction. A command's meaning is what its word does once it is accepted: the arm of
`accept(w)` after CMD, DONE, ERR and PROGRESS are set (spec/40_host_access.md R96, log 13). -/

namespace Sys2Proof.Machine

def exec (i : Instr) (s : State) : Host.Outcome State Fault Refusal :=
  match i with
  | .digest => Sys2Proof.Machine.execDigest s
  | .parseAddr sel => Sys2Proof.Machine.execParseAddr sel s
  | .buildPacket => Sys2Proof.Machine.execBuildPacket s
  | .genTone => Sys2Proof.Machine.execGenTone s
  | .modulate => Sys2Proof.Machine.execModulate s
  | .send => Sys2Proof.Machine.execSend s
  | .save => Sys2Proof.Machine.execSave s
  | .rd32 addr data => Sys2Proof.Machine.execRd32 addr data s
  | .wr32 addr data => Sys2Proof.Machine.execWr32 addr data s
  | .rd8 addr data => Sys2Proof.Machine.execRd8 addr data s
  | .wr8 addr data => Sys2Proof.Machine.execWr8 addr data s

end Sys2Proof.Machine
end

