-- ==== Sys2Proof/Machine/HostProgram.lean ====
section
/-! DEFINITION. Host programs: the register offsets a line may name and the expansions of the pseudo-instructions
(spec/30_encoding.md R82, R83). FSKTX does not execute a program; a program is the transactions its host issues. -/

namespace Sys2Proof.Machine

/-- The offset of a register, as an address of a host program line (spec/30_encoding.md R82). -/
def Reg.addr (r : Reg) : Word := BitVec.ofNat 32 (((regMap.find? fun row => row.2 == r).map Prod.fst).getD 0)

/-- `REGION+o` as an address (spec/30_encoding.md R82). -/
def Buf.addr (X : Buf) (o : Nat) : Word := BitVec.ofNat 32 (X.base + o)

/-- The pseudo-instructions (spec/30_encoding.md R83). -/
inductive Pseudo where
  /-- `digest`, `parse_addr src`, `parse_addr tx`, `build_packet`, `gen_tone`, `modulate`, `send`, `save`. -/
  | command (c : Cmd)
  /-- `wrbytes REGION+o, [b0, b1, …]`. -/
  | wrbytes (X : Buf) (o : Nat) (bs : List Byte)
  /-- `clrstatus`. -/
  | clrstatus
  /-- `waitidle` in a run in which BUSY is read as 1 `busyReads` times before it is read as 0: "It has no fixed encoding" (log 25). -/
  | waitidle (busyReads : Nat)
  deriving DecidableEq, Repr

/-- The test of `waitidle`'s loop: whether the host reads STATUS again after it read `v`, which is bit 0, BUSY
(spec/30_encoding.md R83). -/
def pollAgain (v : Word) : Bool := v.getLsbD 0

/-- `vs` are the values one `waitidle` reads, in order: it goes on after every value with BUSY = 1 and ends at the first with
BUSY = 0, so there is at least one (spec/30_encoding.md R83). -/
def waitidleReads : List Word → Bool
  | [] => false
  | v :: vs => if pollAgain v then waitidleReads vs else vs.isEmpty

/-- The transactions a pseudo-instruction expands to (spec/30_encoding.md R83). `waitidle` is one read of STATUS for each value
with BUSY = 1 and one for the value that ends it. -/
def Pseudo.expand : Pseudo → List Instr
  | .command c => [.wr32 Reg.cmd.addr (encodeCmdw c)]
  | .wrbytes X o bs => bs.zipIdx.map fun (b, i) => .wr8 (Buf.addr X (o + i)) (b.setWidth 32)
  | .clrstatus => [.wr32 Reg.status.addr 0x302]
  | .waitidle busyReads => List.replicate (busyReads + 1) (.rd32 Reg.status.addr 0)

/-- An instruction as the host presents it: a transaction as itself, a command by the WR32 to CMD that carries its word
(spec/30_encoding.md R82, R83, spec/40_host_access.md R96). -/
def hostInput (i : Instr) : Input :=
  match encode i with
  | .hbt t => .bus t
  | .cmdw w => .bus (hbtOf 0b01 Reg.cmd.addr w)

end Sys2Proof.Machine
end

