-- ==== Sys2Proof/Machine/Step.lean ====
section
/-! DEFINITION. One step of FSKTX: one host bus transaction, one sink answer, or the reset input (spec/00_scope.md R18,
R19). FSKTX fetches nothing (spec/10_state.md R21): what it runs next is the environment's next choice. -/

namespace Sys2Proof.Machine

/-- One step: the next choice of the environment takes effect; without one the machine waits (log 2). -/
def step (s : State) : Host.Outcome State Fault Refusal :=
  match takeInput s with
  | none => .next s
  | some (.bus t, s') => exec (decodeHbt t) s'
  | some (.answer r, s') => sinkAnswer r s'
  | some (.reset, s') => .next (hardReset Config.cfgReset s')

/-- `s` with the instruction of the number `w` presented next: an HBT as itself, a CMDW by the host's WR32 of it to CMD
(spec/10_state.md R24, log 13). -/
def State.withFetchWord (s : State) (nbits w : Nat) : State :=
  { s with inputs :=
      (if nbits ≤ 32 then .bus (hbtOf 0b01 Reg.cmd.addr (BitVec.ofNat 32 w)) else .bus (BitVec.ofNat 66 w)) ::
        s.inputs }

end Sys2Proof.Machine
end

