-- ==== Sys2Proof/Safety.lean ====
section
/-! DEFINITION. What a safe state and a safe run of FSKTX are, in the terms the statements use: the invariant of the state
(spec/10_state.md R25 to R48), the audio sink's protocol (spec/46_sequencer.md R175, R176) and frames. -/

namespace Sys2Proof.Machine

/-! ### The shape of a script -/

/-- What is left of an audio script while the sink is acquired: APlay and APause events, then one AClose
(spec/46_sequencer.md R170). -/
def playsThenClose : List Event → Bool
  | [] => false
  | .aOpen :: _ => false
  | .aPlay _ _ :: es => playsThenClose es
  | .aPause _ :: es => playsThenClose es
  | .aClose :: es => es.isEmpty
  | .fWrite _ _ _ :: _ => false

/-- A script no event of which has been answered: an audio script from its AOpen to its AClose, or one FWrite
(spec/46_sequencer.md R170). -/
def freshScript : List Event → Bool
  | [] => false
  | .aOpen :: es => playsThenClose es
  | .aPlay _ _ :: _ => false
  | .aPause _ :: _ => false
  | .aClose :: _ => false
  | .fWrite _ _ _ :: es => es.isEmpty

/-- SEQR is one a command can reach (spec/10_state.md R48): not opened, nothing is answered yet; opened, the rest of an audio
script; aborting, only the releasing AClose remains. -/
def Seqr.legal : Seqr → Bool
  | .idle => true
  | .run script false false => freshScript script
  | .run script true false => playsThenClose script
  | .run script true true => script == [.aClose]
  | .run _ false true => false

/-- SEQR is Run(...). -/
def Seqr.running : Seqr → Bool
  | .idle => false
  | .run _ _ _ => true

/-- `opened` of SEQR; Idle holds no sink (spec/70_reset_and_hazards.md R232). -/
def Seqr.opened : Seqr → Bool
  | .idle => false
  | .run _ opened _ => opened

/-- The events still to be offered. -/
def Seqr.script : Seqr → List Event
  | .idle => []
  | .run script _ _ => script

/-- The buffer an event plays, if it plays one. -/
def Event.played : Event → Option (List Sample)
  | .aOpen => none
  | .aPlay buf _ => some buf
  | .aPause _ => none
  | .aClose => none
  | .fWrite _ _ _ => none

/-- What the events `es`, each answered `r`, add to the output trace of the sink `k`. -/
def traceOf (k : Sink) (r : Answer) (es : List Event) : List (Event × Answer) :=
  (es.filter fun e => e.sink == k).map fun e => (e, r)

/-! ### The invariant -/

/-- `a` is an address of some buffer (spec/20_memory.md R51). -/
def inSomeBuffer (a : Nat) : Bool := [Buf.msg, .cksum, .srcText, .txText, .pkt].any fun X => X.holds a

/-- The largest value PROGRESS can reach (spec/10_state.md R47). -/
abbrev maxProgress : Nat := 133860977

/-- What holds of every state FSKTX reaches. -/
structure Inv (s : State) : Prop where
  /-- The buffer memory is in its canonical form. -/
  memCanonical : Memory.wf s.mem = true
  /-- Only buffer bytes have storage (spec/20_memory.md R51, spec/40_host_access.md R100). -/
  memMapped : ∀ c ∈ s.mem, inSomeBuffer c.1 = true
  /-- "STATUS.BUSY = 1 exactly when SEQR is Run(...)" (spec/10_state.md R48). -/
  busyRuns : s.regs.status.busy = s.seqr.running
  /-- "STATUS.SINK_OPEN equals opened" (spec/10_state.md R48). -/
  sinkOpenIsOpened : s.regs.status.sinkOpen = s.seqr.opened
  /-- The script has the form a command gives it (spec/46_sequencer.md R170). -/
  scriptLegal : s.seqr.legal = true
  /-- "Codes 7 to 15 are never produced" (spec/10_state.md R28). -/
  errProduced : s.regs.status.err.toNat ≤ 6
  /-- While a command runs, DONE and ERR are 0 (spec/40_host_access.md R96). -/
  runningNotDone : s.seqr.running = true → s.regs.status.done = false ∧ s.regs.status.err = 0
  /-- A nonzero ERR stands with DONE (spec/10_state.md R27, R28). -/
  errIsDone : s.regs.status.err ≠ 0 → s.regs.status.done = true
  /-- PKT_LEN's value is at most 65618 (spec/10_state.md R23). -/
  pktLenBound : s.regs.pktLen.toNat ≤ Config.pktCap
  /-- PROGRESS and the events to come stay within R47's bound, so PROGRESS never wraps. -/
  progressBound : s.regs.progress.toNat + s.seqr.script.length ≤ maxProgress

/-! ### The audio sink's protocol -/

/-- What the audio trace has left the audio sink in. -/
inductive AudioPhase where
  /-- Not acquired. -/
  | closed
  /-- Acquired by AOpen. -/
  | acquired
  /-- Acquired, and an event has failed: only AClose may be offered. -/
  | releasing
  deriving DecidableEq, Repr

/-- The phase after one answered event, none if the event may not be offered in that phase (spec/46_sequencer.md R171,
R175, R176). -/
def audioNext (phase : AudioPhase) (x : Event × Answer) : Option AudioPhase :=
  match phase, x.1, x.2 with
  | .closed, .aOpen, .ok => some .acquired
  | .closed, .aOpen, .fail => some .closed
  | .acquired, .aPlay _ _, .ok => some .acquired
  | .acquired, .aPlay _ _, .fail => some .releasing
  | .acquired, .aPause _, .ok => some .acquired
  | .acquired, .aPause _, .fail => some .releasing
  | .acquired, .aClose, _ => some .closed
  | .releasing, .aClose, _ => some .closed
  | _, _, _ => none

/-- The phase a whole audio trace ends in, none if it breaks the protocol. -/
def audioPhase : AudioPhase → List (Event × Answer) → Option AudioPhase
  | phase, [] => some phase
  | phase, x :: tr =>
    match audioNext phase x with
    | none => none
    | some phase' => audioPhase phase' tr

/-- The phase SEQR holds the audio sink in. -/
def Seqr.audioPhase : Seqr → AudioPhase
  | .idle => .closed
  | .run _ false _ => .closed
  | .run _ true false => .acquired
  | .run _ true true => .releasing

/-- The audio trace, which holds the events since the last reset (log 12), keeps the protocol and ends where SEQR says: whenever
SEQR is Idle, everything acquired since that reset is released (spec/46_sequencer.md R176). A device acquired before a reset is out
of it (spec/70_reset_and_hazards.md R230, log 19). -/
def AudioReleased (s : State) : Prop := audioPhase .closed s.audioTrace = some s.seqr.audioPhase

/-! ### Frames -/

/-- Every byte reads as before. -/
def SameBytes (s t : State) : Prop := ∀ a : Nat, t.readByte a = s.readByte a

/-- The bytes `v` stand at `base`, and every other byte reads as before. -/
def BytesStored (s t : State) (base : Nat) (v : List Byte) : Prop :=
  ∀ a : Nat, t.readByte a = if base ≤ a ∧ a < base + v.length then v.getD (a - base) 0 else s.readByte a

/-- Neither sink has been offered an event, the inputs to come are the same, and the buffers' draws are the same. -/
def SameSurroundings (s t : State) : Prop :=
  t.audioTrace = s.audioTrace ∧ t.fileTrace = s.fileTrace ∧ t.inputs = s.inputs ∧ t.drawEpoch = s.drawEpoch

end Sys2Proof.Machine
end

