-- ==== Sys2Proof/Certificates/Slice0/Obligations.lean ====
section
/-! DEFINITION. The statements about FSKTX, from the numbered rules of spec/. A result is written out as a record update of the
state before, so that every field it does not name is unchanged; a store is written through `BytesStored`, so that every byte
outside it reads as before. -/

open Sys2Proof Sys2Proof.Machine

/-! ### Encoding (spec/30_encoding.md) -/

/-- R70 to R77: the encoding of every instruction decodes back to it, with every operand at every value. -/
def Obligations.EveryInstructionDecodesBack : Prop :=
  ∀ i : Instr, decode (encode i) = .ok i

/-- R70 to R77: an encoded form that decodes is the encoding of the instruction read from it, so no two words decode to one
instruction and no bit of a legal word is dropped. -/
def Obligations.EveryDecodedWordIsAnEncoding : Prop :=
  ∀ (x : Wire) (i : Instr), decode x = .ok i → encode i = x

/-- R71, R74, R80: the words that decode to no command are exactly those with an opcode outside 0x01 to 0x07, a nonzero RES,
or SEL = 1 with an opcode other than 0x02. -/
def Obligations.IllegalWordsAreExactlyTheListed : Prop :=
  ∀ w : Word,
    (∃ e, decodeCmdw w = .error e) ↔
      (w.toNat % 256 = 0x00 ∨ 0x08 ≤ w.toNat % 256 ∨ w.toNat / 512 ≠ 0 ∨
        (w.getLsbD 8 = true ∧ w.toNat % 256 ≠ 0x02))

/-- R76, R77: a transaction word is read as KIND || ADDR || DATA, and every KIND is one of the four transactions. -/
def Obligations.TransactionWordsReadTheirFields : Prop :=
  ∀ (t : HbtWord) (kind : Nat) (a d : Word),
    t.toNat = kind * 2 ^ 64 + a.toNat * 2 ^ 32 + d.toNat →
      (kind = 0 → decodeHbt t = .rd32 a d) ∧ (kind = 1 → decodeHbt t = .wr32 a d) ∧
      (kind = 2 → decodeHbt t = .rd8 a d) ∧ (kind = 3 → decodeHbt t = .wr8 a d)

/-- R72, R82: a few words written out from the spec's encodings decode to what they stand for. -/
def Obligations.WrittenOutWordsDecode : Prop :=
  decode (.cmdw 0x00000001) = .ok .digest ∧ decode (.cmdw 0x00000102) = .ok (.parseAddr .tx) ∧
  decode (.cmdw 0x00000007) = .ok .save ∧ decode (.cmdw 0x00000201) = .error .reservedNotZero ∧
  decode (.cmdw 0x00000105) = .error .selNotZero ∧ decode (.cmdw 0x00000008) = .error .illegalOpcode ∧
  decode (.hbt 0x1000000180000012C) = .ok (.wr32 0x18 0x12C) ∧
  decode (.hbt 0x20002001F00000000) = .ok (.rd8 0x2001F 0)

/-! ### A step -/

/-- R18, R101: a step whose next input is a host transaction runs the instruction the transaction decodes to, on the state
with that input taken. -/
def Obligations.StepRunsTheDecodedTransaction : Prop :=
  ∀ (s : State) (t : HbtWord) (rest : List Input),
    s.inputs = .bus t :: rest → step s = exec (decodeHbt t) { s with inputs := rest }

/-- R96: a WR32 of a legal word to CMD while BUSY = 0 sets CMD, clears DONE, ERR and PROGRESS, and runs the command the word
decodes to; WVIOL and AERR stay. -/
def Obligations.AcceptedWordRunsItsCommand : Prop :=
  ∀ (s : State) (w : Word) (i : Instr),
    s.regs.status.busy = false → decode (.cmdw w) = .ok i →
      exec (.wr32 0x00 w) s =
        exec i { s with
          hostData := none
          regs := { s.regs with
            cmd := w
            progress := 0
            status := { s.regs.status with done := false, err := 0 } } }

/-- R74, R206: an accepted illegal word raises ILLEGAL_COMMAND (5): CMD takes the word, PROGRESS is 0, and nothing else
changes but STATUS and SEQR, by `finish` (and what the bus returns, which is the model's own field). -/
def Obligations.IllegalWordRaisesIllegalCommand : Prop :=
  ∀ (s : State) (w : Word),
    s.regs.status.busy = false →
    (w.toNat % 256 = 0x00 ∨ 0x08 ≤ w.toNat % 256 ∨ w.toNat / 512 ≠ 0 ∨
      (w.getLsbD 8 = true ∧ w.toNat % 256 ≠ 0x02)) →
      exec (.wr32 0x00 w) s =
        .next { s with
          hostData := none
          seqr := .idle
          regs := { s.regs with
            cmd := w
            progress := 0
            status := { s.regs.status with err := 5, done := true, busy := false } } }

/-- R26: an accepted word leaves BUSY at 1 only for GEN_TONE, MODULATE, SEND and SAVE, and then a script that nothing has
answered runs; every other acceptance has ended, with DONE = 1, in its own step. -/
def Obligations.AcceptanceEndsOrStartsAScript : Prop :=
  ∀ (s t : State) (w : Word),
    s.regs.status.busy = false → exec (.wr32 0x00 w) s = .next t →
      (t.regs.status.busy = false ∧ t.regs.status.done = true ∧ t.seqr = .idle) ∨
      (t.regs.status.busy = true ∧ t.regs.status.done = false ∧ t.regs.status.err = 0 ∧
        (w = 0x04 ∨ w = 0x05 ∨ w = 0x06 ∨ w = 0x07) ∧ ∃ script, t.seqr = .run script false false ∧ script ≠ [])

/-- R24, R60, R80, R96: the number of a table row's instruction, presented by `withFetchWord`, runs as the very next step: a
transaction as itself, a command word by its acceptance (which needs BUSY = 0). That a command word is presented by the host's
WR32 of it to CMD is the model's choice (log 13). -/
def Obligations.PlacedWordRunsItsInstruction : Prop :=
  ∀ (s : State) (nbits w : Nat) (i : Instr),
    decodeTableWord nbits w = some i →
      (32 < nbits → step (s.withFetchWord nbits w) = exec i s) ∧
      (nbits ≤ 32 → s.regs.status.busy = false →
        step (s.withFetchWord nbits w) =
          exec i { s with
            hostData := none
            regs := { s.regs with
              cmd := BitVec.ofNat 32 w
              progress := 0
              status := { s.regs.status with done := false, err := 0 } } })

/-- The model's choices (log 2, log 3): with no input the machine waits, also for ever (R194); an answer while no event is
offered is a fault, since the sequencer's step is not enabled (R173). -/
def Obligations.WaitsWithoutInputAndFaultsOnStrayAnswer : Prop :=
  (∀ s : State, s.inputs = [] → step s = .next s) ∧
  (∀ (s : State) (r : Answer) (rest : List Input),
    s.inputs = .answer r :: rest → s.seqr.script = [] → step s = .fault .answerNotOffered)

/-- R101: a host transaction is enabled in every state. -/
def Obligations.HostTransactionIsAlwaysEnabled : Prop :=
  ∀ (s : State) (t : HbtWord) (rest : List Input), s.inputs = .bus t :: rest → ∃ s', step s = .next s'

/-! ### Host access (spec/40_host_access.md) -/

/-- R51, R90: the five buffers lie at their addresses, and no other address is of a buffer. -/
def Obligations.BuffersLieWhereTheMapSays : Prop :=
  ∀ (a : Word) (o : Nat),
    (bufAt a = some (.msg, o) ↔ 0x00010000 ≤ a.toNat ∧ a.toNat ≤ 0x0001FFFE ∧ o = a.toNat - 0x00010000) ∧
    (bufAt a = some (.cksum, o) ↔ 0x00020000 ≤ a.toNat ∧ a.toNat ≤ 0x0002001F ∧ o = a.toNat - 0x00020000) ∧
    (bufAt a = some (.srcText, o) ↔ 0x00030000 ≤ a.toNat ∧ a.toNat ≤ 0x0003000F ∧ o = a.toNat - 0x00030000) ∧
    (bufAt a = some (.txText, o) ↔ 0x00030010 ≤ a.toNat ∧ a.toNat ≤ 0x0003001F ∧ o = a.toNat - 0x00030010) ∧
    (bufAt a = some (.pkt, o) ↔ 0x00040000 ≤ a.toNat ∧ a.toNat ≤ 0x00050051 ∧ o = a.toNat - 0x00040000)

/-- R91, R25, R23: RD32, KIND 0b00. At an offset of the register map returns that register (CMD the last accepted word, STATUS its packed
fields with 0 in every other bit) and changes nothing else; any other address is refused: AERR <- 1 and the value 0. -/
def Obligations.Rd32ReturnsTheRegister : Prop :=
  (∀ a d : Word, decodeHbt (hbtOf 0b00 a d) = .rd32 a d) ∧
  ∀ (s : State) (d : Word),
    (∀ row ∈ [((0x00 : Word), s.regs.cmd), (0x08, s.regs.msgLen), (0x0C, s.regs.srcAddr), (0x10, s.regs.txAddr),
        (0x14, s.regs.seq), (0x18, s.regs.redundancy), (0x1C, s.regs.sampleRate), (0x20, s.regs.bitDur),
        (0x24, s.regs.durMult), (0x28, s.regs.fHigh)] ++
        [(0x2C, s.regs.fLow), (0x30, s.regs.pause), (0x34, s.regs.toneDur), (0x38, s.regs.toneFreq),
        (0x3C, s.regs.srcTextLen), (0x40, s.regs.txTextLen), (0x44, s.regs.pktLen), (0x48, s.regs.fileId),
        (0x4C, s.regs.progress)],
      exec (.rd32 row.1 d) s = .next { s with hostData := some row.2 }) ∧
    (∃ v : Word, exec (.rd32 0x04 d) s = .next { s with hostData := some v } ∧
      v.toNat = s.regs.status.busy.toNat + 2 * s.regs.status.done.toNat + 16 * s.regs.status.err.toNat +
        256 * s.regs.status.wviol.toNat + 512 * s.regs.status.aerr.toNat + 1024 * s.regs.status.sinkOpen.toNat) ∧
    (∀ a : Word, ¬(a.toNat % 4 = 0 ∧ a.toNat ≤ 0x4C) →
      exec (.rd32 a d) s =
        .next { s with
          hostData := some 0
          regs := { s.regs with status := { s.regs.status with aerr := true } } })

/-- R92: WR32, KIND 0b01. Refused outside the register map and at PKT_LEN and PROGRESS (AERR, and WVIOL if BUSY); discarded with WVIOL
while BUSY; else CMD accepts the word, STATUS takes W1C, and any other register takes all 32 bits. -/
def Obligations.Wr32StoresTheWord : Prop :=
  (∀ a d : Word, decodeHbt (hbtOf 0b01 a d) = .wr32 a d) ∧
  ∀ (s : State) (d : Word),
    (∀ a : Word, ¬(a.toNat % 4 = 0 ∧ a.toNat < 0x4C ∧ a.toNat ≠ 0x44) →
      exec (.wr32 a d) s =
        .next { s with
          hostData := none
          regs := { s.regs with
            status := { s.regs.status with aerr := true, wviol := s.regs.status.wviol || s.regs.status.busy } } }) ∧
    (∀ a : Word, a.toNat % 4 = 0 → a.toNat < 0x4C → a.toNat ≠ 0x44 → s.regs.status.busy = true →
      exec (.wr32 a d) s =
        .next { s with
          hostData := none
          regs := { s.regs with status := { s.regs.status with wviol := true } } }) ∧
    (s.regs.status.busy = false →
      exec (.wr32 0x00 d) s = .next (accept d { s with hostData := none }) ∧
      exec (.wr32 0x04 d) s =
        .next { s with hostData := none, regs := { s.regs with status := s.regs.status.w1c d } } ∧
      ∀ row ∈ [((0x08 : Word), { s.regs with msgLen := d }), (0x0C, { s.regs with srcAddr := d }),
          (0x10, { s.regs with txAddr := d }), (0x14, { s.regs with seq := d }),
          (0x18, { s.regs with redundancy := d }), (0x1C, { s.regs with sampleRate := d }),
          (0x20, { s.regs with bitDur := d }), (0x24, { s.regs with durMult := d }),
          (0x28, { s.regs with fHigh := d })] ++
          [(0x2C, { s.regs with fLow := d }), (0x30, { s.regs with pause := d }),
          (0x34, { s.regs with toneDur := d }), (0x38, { s.regs with toneFreq := d }),
          (0x3C, { s.regs with srcTextLen := d }), (0x40, { s.regs with txTextLen := d }),
          (0x48, { s.regs with fileId := d })],
        exec (.wr32 row.1 d) s = .next { s with hostData := none, regs := row.2 })

/-- R97: a WR32 to STATUS while BUSY = 0. Bit 1 clears DONE and ERR, bit 8 WVIOL, bit 9 AERR; a 0 leaves them; BUSY, SINK_OPEN
and every other bit of the word are ignored. -/
def Obligations.StatusWriteClearsTheMarkedBits : Prop :=
  ∀ (s : State) (d : Word),
    s.regs.status.busy = false →
      exec (.wr32 0x04 d) s =
        .next { s with
          hostData := none
          regs := { s.regs with
            status := { s.regs.status with
              done := if d.getLsbD 1 = true then false else s.regs.status.done
              err := if d.getLsbD 1 = true then 0 else s.regs.status.err
              wviol := if d.getLsbD 8 = true then false else s.regs.status.wviol
              aerr := if d.getLsbD 9 = true then false else s.regs.status.aerr } } }

/-- R93: RD8, KIND 0b10, returns the zero-extended byte of the buffer the address lies in and changes nothing else; any other address, the
register block included, is refused: AERR <- 1 and the value 0. -/
def Obligations.Rd8ReturnsTheByte : Prop :=
  (∀ a d : Word, decodeHbt (hbtOf 0b10 a d) = .rd8 a d) ∧
  ∀ (s : State) (a d : Word),
    (bufAt a ≠ none →
      exec (.rd8 a d) s = .next { s with hostData := some ((s.readByte a.toNat).setWidth 32) }) ∧
    (bufAt a = none →
      exec (.rd8 a d) s =
        .next { s with
          hostData := some 0
          regs := { s.regs with status := { s.regs.status with aerr := true } } })

/-- R94: WR8, KIND 0b11. Refused outside MSG, SRC_TEXT and TX_TEXT (AERR, and WVIOL if BUSY); discarded with WVIOL while BUSY; else the
byte at the address becomes D[7:0] and no other byte, register or part of the machine changes. -/
def Obligations.Wr8StoresTheLowByte : Prop :=
  (∀ a d : Word, decodeHbt (hbtOf 0b11 a d) = .wr8 a d) ∧
  ∀ (s : State) (a d : Word),
    Memory.wf s.mem = true →
    (¬((0x00010000 ≤ a.toNat ∧ a.toNat ≤ 0x0001FFFE) ∨ (0x00030000 ≤ a.toNat ∧ a.toNat ≤ 0x0003001F)) →
      exec (.wr8 a d) s =
        .next { s with
          hostData := none
          regs := { s.regs with
            status := { s.regs.status with aerr := true, wviol := s.regs.status.wviol || s.regs.status.busy } } }) ∧
    (((0x00010000 ≤ a.toNat ∧ a.toNat ≤ 0x0001FFFE) ∨ (0x00030000 ≤ a.toNat ∧ a.toNat ≤ 0x0003001F)) →
      (s.regs.status.busy = true →
        exec (.wr8 a d) s =
          .next { s with
            hostData := none
            regs := { s.regs with status := { s.regs.status with wviol := true } } }) ∧
      (s.regs.status.busy = false →
        ∃ t, exec (.wr8 a d) s = .next t ∧ t = { s with hostData := none, mem := t.mem } ∧
          BytesStored s t a.toNat [BitVec.ofNat 8 d.toNat]))

/-- R83, R94: `wrbytes` and `waitidle`. The transactions `wrbytes REGION+o, [b0, b1, …]` expands to, presented while BUSY = 0 for
a region the host may write, store the bytes at base + o in order, and change no other byte and nothing else. `waitidle` is one or
more reads of address 0x04: it ends at the first value whose bit 0 is 0, that bit is BUSY, and around a script that every sink
answers with Ok it reads BUSY = 1, then BUSY = 0, and has ended with SEQR Idle. -/
def Obligations.WrbytesStoresAndWaitidlePolls : Prop :=
  (∀ (s : State) (X : Buf) (o : Nat) (bs : List Byte) (later : List Input),
    Memory.wf s.mem = true → s.regs.status.busy = false → writableBuf X = true → o + bs.length ≤ X.size →
    s.inputs = (Pseudo.wrbytes X o bs).expand.map hostInput ++ later →
      ∃ t, Host.Core.run Sys2Proof.core bs.length s = .next t ∧
        t = { s with
          inputs := later
          mem := t.mem
          hostData := if bs = [] then s.hostData else none } ∧
        BytesStored s t (X.base + o) bs) ∧
  (∀ busyReads : Nat,
    0 < (Pseudo.waitidle busyReads).expand.length ∧ (Pseudo.waitidle busyReads).expand.length = busyReads + 1 ∧
    ∀ i ∈ (Pseudo.waitidle busyReads).expand, i = .rd32 0x04 0) ∧
  (∀ vs : List Word,
    waitidleReads vs = true ↔
      ∃ (before : List Word) (last : Word),
        vs = before ++ [last] ∧ (∀ v ∈ before, v.getLsbD 0 = true) ∧ last.getLsbD 0 = false) ∧
  (∀ s : State, ∃ v : Word,
    exec (.rd32 0x04 0) s = .next { s with hostData := some v } ∧ v.getLsbD 0 = s.regs.status.busy) ∧
  (∀ (s : State) (script : List Event) (opened : Bool) (poll : Input) (later : List Input),
    (Pseudo.waitidle 0).expand.map hostInput = [poll] →
    s.seqr = .run script opened false → script ≠ [] → s.regs.status.busy = true →
    s.inputs = poll :: (List.replicate script.length (.answer .ok) ++ poll :: later) →
      ∃ (t u : State) (v w : Word),
        Host.Core.run Sys2Proof.core 1 s = .next t ∧ t.hostData = some v ∧
        Host.Core.run Sys2Proof.core (script.length + 2) s = .next u ∧ u.hostData = some w ∧
        waitidleReads [v, w] = true ∧ u.seqr = .idle ∧ u.inputs = later)

/-- R98: a write while BUSY = 1 changes nothing except WVIOL <- 1, plus AERR <- 1 when it is also refused. -/
def Obligations.BusyWritesAreDiscarded : Prop :=
  ∀ (s : State) (a d : Word),
    s.regs.status.busy = true →
    (∃ refused : Bool,
      (refused = true ↔ ¬(a.toNat % 4 = 0 ∧ a.toNat < 0x4C ∧ a.toNat ≠ 0x44)) ∧
      exec (.wr32 a d) s =
        .next { s with
          hostData := none
          regs := { s.regs with
            status := { s.regs.status with wviol := true, aerr := s.regs.status.aerr || refused } } }) ∧
    (∃ refused : Bool,
      (refused = true ↔
        ¬((0x00010000 ≤ a.toNat ∧ a.toNat ≤ 0x0001FFFE) ∨ (0x00030000 ≤ a.toNat ∧ a.toNat ≤ 0x0003001F))) ∧
      exec (.wr8 a d) s =
        .next { s with
          hostData := none
          regs := { s.regs with
            status := { s.regs.status with wviol := true, aerr := s.regs.status.aerr || refused } } })

/-- R99: no host transaction but an accepted command changes PKT_LEN, PROGRESS, CMD, BUSY or SINK_OPEN, and ERR changes only by
the W1C of DONE. -/
def Obligations.ReadOnlyRegistersStayUnderHostAccess : Prop :=
  ∀ (s t : State) (i : Instr) (x : HbtWord),
    decodeHbt x = i → (∀ w : Word, i = .wr32 0x00 w → s.regs.status.busy = true) → exec i s = .next t →
      t.regs.pktLen = s.regs.pktLen ∧ t.regs.progress = s.regs.progress ∧ t.regs.cmd = s.regs.cmd ∧
      t.regs.status.busy = s.regs.status.busy ∧ t.regs.status.sinkOpen = s.regs.status.sinkOpen ∧
      (t.regs.status.err = s.regs.status.err ∨ ∃ d : Word, i = .wr32 0x04 d ∧ d.getLsbD 1 = true)

/-- R102, R232: no host transaction, and no command at its acceptance, produces a sink event: a step that changes a sink's trace and
is no reset is a sink's answer; and a reset step leaves both traces empty. -/
def Obligations.OnlyAnswersProduceSinkEvents : Prop :=
  (∀ (i : Instr) (s t : State), exec i s = .next t → t.audioTrace = s.audioTrace ∧ t.fileTrace = s.fileTrace) ∧
  (∀ s t : State, step s = .next t → (∀ rest, s.inputs ≠ .reset :: rest) →
    (t.audioTrace ≠ s.audioTrace ∨ t.fileTrace ≠ s.fileTrace) → ∃ r rest, s.inputs = .answer r :: rest) ∧
  (∀ (s t : State) (rest : List Input), s.inputs = .reset :: rest → step s = .next t →
    t.audioTrace = [] ∧ t.fileTrace = [])

/-- R76: the DATA of a read, and the bits of a WR8's DATA above 7:0, change nothing. -/
def Obligations.IgnoredDataBitsChangeNothing : Prop :=
  ∀ (s : State) (a d d' : Word),
    exec (.rd32 a d) s = exec (.rd32 a d') s ∧ exec (.rd8 a d) s = exec (.rd8 a d') s ∧
    (d.toNat % 256 = d'.toNat % 256 → exec (.wr8 a d) s = exec (.wr8 a d') s)

/-! ### Checksum unit (spec/41_checksum.md) -/

/-- R105: DIGEST, CMDW 0x01. With MSG_LEN > 65535 it ends with LENGTH_EXCEEDED (1) and CKSUM is unchanged; else the 32 bytes of CKSUM become
the lowercase hex MD5 of MSG[0..L), every other byte is unchanged, and it ends with OK. The value for
"hi" is the source's; the value for "" and the algorithm are the spec's general knowledge, which the model presumes (log 14). -/
def Obligations.DigestStoresTheChecksum : Prop :=
  decodeCmdw 0x00000001 = .ok .digest ∧
  (∀ s : State, 65535 < s.regs.msgLen.toNat →
    exec .digest s =
      .next { s with
        seqr := .idle
        regs := { s.regs with status := { s.regs.status with err := 1, done := true, busy := false } } }) ∧
  (∀ s : State, Memory.wf s.mem = true → s.regs.msgLen.toNat ≤ 65535 →
    ∃ t, exec .digest s = .next t ∧
      t = { s with
        seqr := .idle
        mem := t.mem
        regs := { s.regs with status := { s.regs.status with err := 0, done := true, busy := false } } } ∧
      BytesStored s t 0x00020000 (hexlower (md5 (memRead .msg 0 s.regs.msgLen.toNat s)))) ∧
  hexlower (md5 []) =
    [0x64, 0x34, 0x31, 0x64, 0x38, 0x63, 0x64, 0x39, 0x38, 0x66, 0x30, 0x30, 0x62, 0x32, 0x30, 0x34,
      0x65, 0x39, 0x38, 0x30, 0x30, 0x39, 0x39, 0x38, 0x65, 0x63, 0x66, 0x38, 0x34, 0x32, 0x37, 0x65] ∧
  hexlower (md5 [0x68, 0x69]) =
    [0x34, 0x39, 0x66, 0x36, 0x38, 0x61, 0x35, 0x63, 0x38, 0x34, 0x39, 0x33, 0x65, 0x63, 0x32, 0x63,
      0x30, 0x62, 0x66, 0x34, 0x38, 0x39, 0x38, 0x32, 0x31, 0x63, 0x32, 0x31, 0x66, 0x63, 0x33, 0x62]

/-- R107: the padding is the message, 0x80, the least number of zeros that brings the length to 56 modulo 64, and the bit length
in 8 little-endian bytes; the whole is a multiple of 64 bytes. The MD5 text is the spec's own general knowledge (log 14). -/
def Obligations.PaddingFillsWholeBlocks : Prop :=
  ∀ m : List Byte,
    (md5Pad m).length % 64 = 0 ∧
    ∃ k, (m.length + 1 + k) % 64 = 56 ∧ (∀ k', k' < k → (m.length + 1 + k') % 64 ≠ 56) ∧
      ∃ len : List Byte, len.length = 8 ∧
        (∀ j, j < 8 → (len.getD j 0).toNat = 8 * m.length / 256 ^ j % 256) ∧
        md5Pad m = m ++ [0x80] ++ List.replicate k 0x00 ++ len

/-- R108, R114: the hex form has exactly two lowercase digits a byte, high nibble first, and decodes back to the digest. -/
def Obligations.HexDigitsDecodeToTheDigest : Prop :=
  (∀ d : List Byte, (hexlower d).length = 2 * d.length) ∧
  (∀ (d : List Byte) (i : Nat), i < d.length → ∃ hi lo : Nat,
    hi < 16 ∧ lo < 16 ∧ (d.getD i 0).toNat = 16 * hi + lo ∧
    ((hexlower d).getD (2 * i) 0).toNat = (if hi ≤ 9 then 0x30 + hi else 0x61 + (hi - 10)) ∧
    ((hexlower d).getD (2 * i + 1) 0).toNat = (if lo ≤ 9 then 0x30 + lo else 0x61 + (lo - 10))) ∧
  (∀ d d' : List Byte, hexlower d = hexlower d' → d = d')

/-- R105, R114: the checksum is a property of the message. DIGEST, SEND and SAVE on two states that hold the same message leave
the same bytes in CKSUM whenever none of them fails validation (acceptance has left ERR at 0 before they run). -/
def Obligations.ChecksumDependsOnTheMessageOnly : Prop :=
  ∀ (i i' : Instr) (s s' t t' : State),
    i ∈ [Instr.digest, .send, .save] → i' ∈ [Instr.digest, .send, .save] →
    Memory.wf s.mem = true → Memory.wf s'.mem = true →
    s'.regs.msgLen = s.regs.msgLen →
    (∀ a, 0x00010000 ≤ a → a < 0x00010000 + s.regs.msgLen.toNat → s'.readByte a = s.readByte a) →
    exec i s = .next t → exec i' s' = .next t' →
    s.regs.status.err = 0 → s'.regs.status.err = 0 → t.regs.status.err = 0 → t'.regs.status.err = 0 →
      ∀ a, 0x00020000 ≤ a → a < 0x00020020 → t.readByte a = t'.readByte a

/-! ### Address parsing (spec/42_address.md) -/

/-- R121: `parseDotted` answers exactly on D1 '.' D2 '.' D3 '.' D4 with 1 to 3 ASCII digits each and every value at most 255, and
answers the four decimal values. -/
def Obligations.ParseDottedAcceptsExactlyTheGrammar : Prop :=
  ∀ (text : List Byte) (v1 v2 v3 v4 : Nat),
    parseDotted text = some (v1, v2, v3, v4) ↔
      ∃ d1 d2 d3 d4 : List Byte,
        text = d1 ++ [0x2E] ++ d2 ++ [0x2E] ++ d3 ++ [0x2E] ++ d4 ∧
        ∀ part ∈ [(d1, v1), (d2, v2), (d3, v3), (d4, v4)],
          1 ≤ part.1.length ∧ part.1.length ≤ 3 ∧
          (∀ b ∈ part.1, 0x30 ≤ b.toNat ∧ b.toNat ≤ 0x39) ∧
          part.2 = part.1.foldl (fun v b => 10 * v + (b.toNat - 0x30)) 0 ∧ part.2 ≤ 255

/-- R120, R123: PARSE_ADDR, CMDW 0x02 with SEL = 0 (SRC_TEXT into SRC_ADDR) and 0x102 with SEL = 1 (TX_TEXT into TX_ADDR). A
legal text of at most 16 bytes puts a<<24 | b<<16 | c<<8 | d into the target and ends with OK; any other ends with ADDRESS_FORMAT
(2) and leaves the target. Nothing else changes. -/
def Obligations.ParseAddrSetsTheAddress : Prop :=
  decodeCmdw 0x00000002 = .ok (.parseAddr .src) ∧ decodeCmdw 0x00000102 = .ok (.parseAddr .tx) ∧
  ∀ s : State,
    (∀ a b c d : Nat, s.regs.srcTextLen.toNat ≤ 16 →
      parseDotted (memRead .srcText 0 s.regs.srcTextLen.toNat s) = some (a, b, c, d) →
      ∃ w : Word, w.toNat = a * 2 ^ 24 + b * 2 ^ 16 + c * 2 ^ 8 + d ∧
        exec (.parseAddr .src) s =
          .next { s with
            seqr := .idle
            regs := { s.regs with
              srcAddr := w
              status := { s.regs.status with err := 0, done := true, busy := false } } }) ∧
    (16 < s.regs.srcTextLen.toNat ∨ parseDotted (memRead .srcText 0 s.regs.srcTextLen.toNat s) = none →
      exec (.parseAddr .src) s =
        .next { s with
          seqr := .idle
          regs := { s.regs with status := { s.regs.status with err := 2, done := true, busy := false } } }) ∧
    (∀ a b c d : Nat, s.regs.txTextLen.toNat ≤ 16 →
      parseDotted (memRead .txText 0 s.regs.txTextLen.toNat s) = some (a, b, c, d) →
      ∃ w : Word, w.toNat = a * 2 ^ 24 + b * 2 ^ 16 + c * 2 ^ 8 + d ∧
        exec (.parseAddr .tx) s =
          .next { s with
            seqr := .idle
            regs := { s.regs with
              txAddr := w
              status := { s.regs.status with err := 0, done := true, busy := false } } }) ∧
    (16 < s.regs.txTextLen.toNat ∨ parseDotted (memRead .txText 0 s.regs.txTextLen.toNat s) = none →
      exec (.parseAddr .tx) s =
        .next { s with
          seqr := .idle
          regs := { s.regs with status := { s.regs.status with err := 2, done := true, busy := false } } })

/-! ### Packet framer (spec/43_framer.md) -/

/-- R131, R132: a packet has every field at its offset, integers big-endian, and 83 bytes before its payload. -/
def Obligations.PacketFieldsLieAtTheirOffsets : Prop :=
  ∀ (src tx : Word) (seq : Nat) (ck pl : List Byte),
    seq ≤ 255 → ck.length = 32 → pl.length ≤ 65535 →
    ∃ p, p = frame src tx seq ck pl ∧ p.length = 83 + pl.length ∧
      (∀ j, j < 32 → (p.getD j 0).toNat = 0x55) ∧
      (∀ j, j < 4 → (p.getD (32 + j) 0).toNat = src.toNat / 256 ^ (3 - j) % 256) ∧
      (∀ j, j < 4 → (p.getD (36 + j) 0).toNat = tx.toNat / 256 ^ (3 - j) % 256) ∧
      (p.getD 40 0).toNat = seq ∧
      256 * (p.getD 41 0).toNat + (p.getD 42 0).toNat = pl.length ∧
      (∀ j, j < 8 → (p.getD (43 + j) 0).toNat = 0x00) ∧
      (p.drop 51).take 32 = ck ∧ p.drop 83 = pl

/-- R130: BUILD_PACKET, CMDW 0x03. LENGTH_EXCEEDED (1) is checked before SEQ_OVERFLOW (3), and on either PKT and PKT_LEN are unchanged; else
PKT[0..83+L) is the frame of the operands with CKSUM as it stands, PKT_LEN is 83 + L, and it ends with OK. -/
def Obligations.BuildPacketStoresTheFrame : Prop :=
  decodeCmdw 0x00000003 = .ok .buildPacket ∧
  ∀ s : State,
    (65535 < s.regs.msgLen.toNat →
      exec .buildPacket s =
        .next { s with
          seqr := .idle
          regs := { s.regs with status := { s.regs.status with err := 1, done := true, busy := false } } }) ∧
    (s.regs.msgLen.toNat ≤ 65535 → 255 < s.regs.seq.toNat →
      exec .buildPacket s =
        .next { s with
          seqr := .idle
          regs := { s.regs with status := { s.regs.status with err := 3, done := true, busy := false } } }) ∧
    (Memory.wf s.mem = true → s.regs.msgLen.toNat ≤ 65535 → s.regs.seq.toNat ≤ 255 →
      ∃ t, exec .buildPacket s = .next t ∧
        t = { s with
          seqr := .idle
          mem := t.mem
          regs := { s.regs with
            pktLen := t.regs.pktLen
            status := { s.regs.status with err := 0, done := true, busy := false } } } ∧
        t.regs.pktLen.toNat = 83 + s.regs.msgLen.toNat ∧
        BytesStored s t 0x00040000
          (frame s.regs.srcAddr s.regs.txAddr s.regs.seq.toNat (memRead .cksum 0 32 s)
            (memRead .msg 0 s.regs.msgLen.toNat s)))

/-- R140, R141: `build_all` has R packets, the r-th numbered r, and any two of them differ at byte 40 only. -/
def Obligations.BuildAllNumbersItsPackets : Prop :=
  ∀ (src tx : Word) (count : Nat) (ck pl : List Byte),
    count ≤ 255 → ck.length = 32 → pl.length ≤ 65535 →
      (buildAll src tx count ck pl).length = count ∧
      (∀ r, r < count → ∃ p, (buildAll src tx count ck pl)[r]? = some p ∧
        p = frame src tx (r + 1) ck pl ∧ p.length = 83 + pl.length ∧ (p.getD 40 0).toNat = r + 1 ∧
        256 * (p.getD 41 0).toNat + (p.getD 42 0).toNat = pl.length) ∧
      (∀ p ∈ buildAll src tx count ck pl, ∀ p' ∈ buildAll src tx count ck pl,
        ∀ j, j ≠ 40 → p.getD j 0 = p'.getD j 0)

/-! ### Tone synthesizer and modulator (spec/44_tone.md, spec/45_modulator.md) -/

/-- R149, R152: nSamples(d) is SAMPLE_RATE · q(d) · q(DUR_MULT), exactly in the rationals, which is the
quotient of naturals SAMPLE_RATE · d · DUR_MULT / 2^32, rounded to the nearest natural with a tie to the even one. -/
def Obligations.SampleCountIsTheRoundedProduct : Prop :=
  ∀ (s : State) (d : Word) (x : ℚ) (n : ℕ),
    x = (s.regs.sampleRate.toNat : ℚ) * Q16.toRat ⟨d⟩ * Q16.toRat ⟨s.regs.durMult⟩ →
    (n : ℚ) ≤ x → x < (n : ℚ) + 1 →
      x = ((s.regs.sampleRate.toNat * d.toNat * s.regs.durMult.toNat : ℕ) : ℚ) / 2 ^ 32 ∧
      (x - n < 1 / 2 → s.nSamples d = n) ∧
      (1 / 2 < x - n → s.nSamples d = n + 1) ∧
      (x - n = 1 / 2 → s.nSamples d = if n % 2 = 0 then n else n + 1)

/-- R146, R147: `tone(f, n)` has n samples, the k-th TONE_FN(f, sr, k), and `tone(0, n)` is n zero samples. -/
def Obligations.ToneHasItsSamplesAndZeroIsSilent : Prop :=
  ∀ (sr n : Nat) (f : Q16),
    (tone sr f n).length = n ∧ (∀ k, k < n → (tone sr f n)[k]? = some (toneFn f sr k)) ∧
    (∀ k, toneFn ⟨0⟩ sr k = zeroSample) ∧ tone sr ⟨0⟩ n = List.replicate n zeroSample

/-- R155: with SAMPLE_RATE = 0, DUR_MULT = 0 or a zero duration, nSamples is 0 and every tone buffer is empty. -/
def Obligations.ZeroOperandsGiveEmptyBuffers : Prop :=
  ∀ (s : State) (d : Word) (f : Q16),
    s.regs.sampleRate = 0 ∨ s.regs.durMult = 0 ∨ d = 0 → s.nSamples d = 0 ∧ tone s.rate f (s.nSamples d) = []

/-- R145: GEN_TONE, CMDW 0x04, sets BUSY and starts the script AOpen, APlay of the tone of TONE_FREQ with nSamples(TONE_DUR) samples at
SAMPLE_RATE, AClose; nothing else changes. -/
def Obligations.GenToneStartsOneTone : Prop :=
  decodeCmdw 0x00000004 = .ok .genTone ∧
  ∀ s : State,
    exec .genTone s =
      .next { s with
        seqr := .run
          [.aOpen, .aPlay (tone s.regs.sampleRate.toNat ⟨s.regs.toneFreq⟩ (s.nSamples s.regs.toneDur))
            s.regs.sampleRate.toNat, .aClose] false false
        regs := { s.regs with status := { s.regs.status with busy := true } } }

/-- R160: `bits(p)` has 8 · len(p) bits; bit i is bit 7 − (i mod 8) of byte i div 8. -/
def Obligations.BitsAreMostSignificantFirst : Prop :=
  ∀ p : List Byte,
    (bits p).length = 8 * p.length ∧
    ∀ i, i < 8 * p.length → (bits p)[i]? = some ((p.getD (i / 8) 0).getLsbD (7 - i % 8))

/-- R161, R162: `modulate(p)` has one buffer a bit, in bit order: the tone of F_HIGH for a 1 and of F_LOW for a 0, each of N_BIT
samples at SAMPLE_RATE. With F_LOW = 0 the low tone is N_BIT zero samples. -/
def Obligations.ModulationFollowsTheBits : Prop :=
  ∀ (s : State) (p : List Byte),
    (s.modulatePacket p).length = 8 * p.length ∧
    (s.regs.fLow = 0 →
      tone s.regs.sampleRate.toNat ⟨s.regs.fLow⟩ (s.nSamples s.regs.bitDur) =
        List.replicate (s.nSamples s.regs.bitDur) zeroSample) ∧
    ∀ i, i < 8 * p.length →
      (s.modulatePacket p)[i]? =
        some (tone s.regs.sampleRate.toNat
          (if (p.getD (i / 8) 0).getLsbD (7 - i % 8) = true then ⟨s.regs.fHigh⟩ else ⟨s.regs.fLow⟩)
          (s.nSamples s.regs.bitDur))

/-- R165: an all-zero packet modulates to silence when F_LOW = 0, whatever F_HIGH holds. -/
def Obligations.ZeroPacketIsSilentAtZeroLowTone : Prop :=
  ∀ (s : State) (p : List Byte),
    s.regs.fLow = 0 → (∀ b ∈ p, b = 0x00) →
      ∀ buf ∈ s.modulatePacket p, buf = List.replicate s.nBit zeroSample

/-- R166: every framed packet begins with 128 pairs of buffers, low then high, from its preamble. -/
def Obligations.FramedPacketsBeginLowHigh : Prop :=
  ∀ (s : State) (src tx : Word) (seq : Nat) (ck pl : List Byte) (i : Nat),
    i < 256 →
      (s.modulatePacket (frame src tx seq ck pl))[i]? =
        some (tone s.rate (if i % 2 = 1 then ⟨s.regs.fHigh⟩ else ⟨s.regs.fLow⟩) s.nBit)

/-- R163: MODULATE, CMDW 0x05, sets BUSY and starts the script AOpen, one APlay for each buffer of the packet in PKT[0..PKT_LEN), AClose;
nothing else changes. -/
def Obligations.ModulateStartsThePacketInPkt : Prop :=
  decodeCmdw 0x00000005 = .ok .modulate ∧
  ∀ s : State,
    exec .modulate s =
      .next { s with
        seqr := .run
          ([.aOpen] ++
            (s.modulatePacket (memRead .pkt 0 s.regs.pktLen.toNat s)).map (fun t => .aPlay t s.regs.sampleRate.toNat) ++
            [.aClose]) false false
        regs := { s.regs with status := { s.regs.status with busy := true } } }

/-! ### Sequencer (spec/46_sequencer.md) -/

/-- R178, R179, R180: SEND, CMDW 0x06. LENGTH_EXCEEDED (1) before SEQ_OVERFLOW (3), both with nothing else changed; else CKSUM becomes the message's
checksum, BUSY is set and the script is AOpen, for each of the R packets numbered 1 to R its tones and one APause(PAUSE), and
AClose. -/
def Obligations.SendStartsItsScript : Prop :=
  decodeCmdw 0x00000006 = .ok .send ∧
  ∀ s : State,
    (65535 < s.regs.msgLen.toNat →
      exec .send s =
        .next { s with
          seqr := .idle
          regs := { s.regs with status := { s.regs.status with err := 1, done := true, busy := false } } }) ∧
    (s.regs.msgLen.toNat ≤ 65535 → 255 < s.regs.redundancy.toNat →
      exec .send s =
        .next { s with
          seqr := .idle
          regs := { s.regs with status := { s.regs.status with err := 3, done := true, busy := false } } }) ∧
    (Memory.wf s.mem = true → s.regs.msgLen.toNat ≤ 65535 → s.regs.redundancy.toNat ≤ 255 →
      ∃ (t : State) (m ck : List Byte), exec .send s = .next t ∧
        m = memRead .msg 0 s.regs.msgLen.toNat s ∧ ck = hexlower (md5 m) ∧
        t = { s with
          mem := t.mem
          seqr := .run
            ([.aOpen] ++
              (buildAll s.regs.srcAddr s.regs.txAddr s.regs.redundancy.toNat ck m).flatMap
                (fun p => (s.modulatePacket p).map (fun b => .aPlay b s.regs.sampleRate.toNat) ++
                  [.aPause ⟨s.regs.pause⟩]) ++
              [.aClose]) false false
          regs := { s.regs with status := { s.regs.status with busy := true } } } ∧
        BytesStored s t 0x00020000 ck)

/-- R179: the SEND script has 2 + R · (8 · (83 + L) + 1) events. -/
def Obligations.SendScriptHasItsLength : Prop :=
  ∀ s : State,
    s.sendScript.length = 2 + s.regs.redundancy.toNat * (8 * (83 + s.regs.msgLen.toNat) + 1)

/-- R181, R182, R184: SAVE, CMDW 0x07. LENGTH_EXCEEDED (1), then SEQ_OVERFLOW (3), then CONFIG_INVALID (6), each with nothing else changed; else
CKSUM becomes the message's checksum, BUSY is set and the script is one FWrite of FILE_ID and, for each of the R packets, its
tones and P_PAUSE silent buffers of N_BIT samples. -/
def Obligations.SaveStartsItsScript : Prop :=
  decodeCmdw 0x00000007 = .ok .save ∧
  ∀ s : State,
    (65535 < s.regs.msgLen.toNat →
      exec .save s =
        .next { s with
          seqr := .idle
          regs := { s.regs with status := { s.regs.status with err := 1, done := true, busy := false } } }) ∧
    (s.regs.msgLen.toNat ≤ 65535 → 255 < s.regs.redundancy.toNat →
      exec .save s =
        .next { s with
          seqr := .idle
          regs := { s.regs with status := { s.regs.status with err := 3, done := true, busy := false } } }) ∧
    (s.regs.msgLen.toNat ≤ 65535 → s.regs.redundancy.toNat ≤ 255 → s.regs.bitDur = 0 →
      exec .save s =
        .next { s with
          seqr := .idle
          regs := { s.regs with status := { s.regs.status with err := 6, done := true, busy := false } } }) ∧
    (Memory.wf s.mem = true → s.regs.msgLen.toNat ≤ 65535 → s.regs.redundancy.toNat ≤ 255 → s.regs.bitDur ≠ 0 →
      ∃ (t : State) (m ck : List Byte), exec .save s = .next t ∧
        m = memRead .msg 0 s.regs.msgLen.toNat s ∧ ck = hexlower (md5 m) ∧
        t = { s with
          mem := t.mem
          seqr := .run
            [.fWrite s.regs.fileId
              ((buildAll s.regs.srcAddr s.regs.txAddr s.regs.redundancy.toNat ck m).flatMap
                (fun p => (s.modulatePacket p).flatten ++
                  (List.replicate s.pPause (List.replicate (s.nSamples s.regs.bitDur) zeroSample)).flatten))
              s.regs.sampleRate.toNat] false false
          regs := { s.regs with status := { s.regs.status with busy := true } } } ∧
        BytesStored s t 0x00020000 ck)

/-- R183: P_PAUSE is the exact ceiling of q(PAUSE) / q(BIT_DUR), and of the quotient of the raw values, when BIT_DUR is not 0. -/
def Obligations.PauseCountIsTheExactCeiling : Prop :=
  ∀ s : State, s.regs.bitDur ≠ 0 →
    s.pPause = Nat.ceil (Q16.toRat ⟨s.regs.pause⟩ / Q16.toRat ⟨s.regs.bitDur⟩) ∧
    s.pPause = Nat.ceil ((s.regs.pause.toNat : ℚ) / (s.regs.bitDur.toNat : ℚ))

/-- R186: the assembled sequence has R · (8 · (83 + L) + P_PAUSE) · N_BIT samples, no leading and no trailing one more. -/
def Obligations.AssembledSequenceHasItsLength : Prop :=
  ∀ s : State,
    s.assemble.length =
      s.regs.redundancy.toNat * (8 * (83 + s.regs.msgLen.toNat) + s.pPause) * s.nBit

/-- R185: with R at least 1, the first N_BIT samples of the assembled sequence are the first bit's buffer, which is the low tone, from
its sample 0 on: no sample precedes it. -/
def Obligations.AssembledSequenceStartsWithTheFirstTone : Prop :=
  ∀ s : State,
    0 < s.regs.redundancy.toNat →
      s.assemble.take (s.nSamples s.regs.bitDur) =
        tone s.regs.sampleRate.toNat ⟨s.regs.fLow⟩ (s.nSamples s.regs.bitDur)

/-- R187: the APlay buffers of SEND, in order, carry the samples of SAVE with the pause samples taken out. -/
def Obligations.BothPathsCarryTheSameTones : Prop :=
  ∀ s : State, ∃ tones : List (List Sample),
    tones.length = s.regs.redundancy.toNat ∧
    (s.sendScript.filterMap Event.played).flatten = tones.flatten ∧
    s.assemble = tones.flatMap fun t => t ++ List.replicate (s.pPause * s.nBit) zeroSample

/-- R173, R174: an Ok answer to the head event. The pair goes to the trace of its sink; AOpen acquires and AClose releases the
sink; an aborting script ends with SINK_FAILURE (4); else PROGRESS grows by 1, and the script goes on with the rest or, at its
end, ends with OK. -/
def Obligations.OkAnswerAdvancesTheScript : Prop :=
  ∀ (s : State) (e : Event) (rest : List Event) (opened aborting : Bool) (later : List Input),
    s.inputs = .answer .ok :: later → s.seqr = .run (e :: rest) opened aborting →
      ∃ (t : State) (opened' sinkOpen' : Bool), step s = .next t ∧
        opened' = (if e = .aOpen then true else if e = .aClose then false else opened) ∧
        sinkOpen' = (if e = .aOpen then true else if e = .aClose then false else s.regs.status.sinkOpen) ∧
        t = { s with
          inputs := later
          audioTrace := if e.sink = .audio then s.audioTrace ++ [(e, .ok)] else s.audioTrace
          fileTrace := if e.sink = .file then s.fileTrace ++ [(e, .ok)] else s.fileTrace
          seqr := if aborting = true ∨ rest = [] then .idle else .run rest opened' false
          regs := { s.regs with
            progress := if aborting = true then s.regs.progress else s.regs.progress + 1
            status :=
              if aborting = true then
                { s.regs.status with sinkOpen := sinkOpen', err := 4, done := true, busy := false }
              else if rest = [] then
                { s.regs.status with sinkOpen := sinkOpen', err := 0, done := true, busy := false }
              else { s.regs.status with sinkOpen := sinkOpen' } } }

/-- R173, R175: a Fail answer to the head event. The pair goes to the trace of its sink and PROGRESS does not grow. After APlay or
APause the releasing AClose is offered next; after anything else, and whenever the script was aborting, the command ends with
SINK_FAILURE (4), with the sink released by an AClose. -/
def Obligations.FailAnswerReleasesAndReports : Prop :=
  ∀ (s : State) (e : Event) (rest : List Event) (opened aborting : Bool) (later : List Input),
    s.inputs = .answer .fail :: later → s.seqr = .run (e :: rest) opened aborting →
      ∃ (t : State) (plays : Bool), step s = .next t ∧
        (plays = true ↔ aborting = false ∧ ((∃ b sr, e = .aPlay b sr) ∨ ∃ d, e = .aPause d)) ∧
        t = { s with
          inputs := later
          audioTrace := if e.sink = .audio then s.audioTrace ++ [(e, .fail)] else s.audioTrace
          fileTrace := if e.sink = .file then s.fileTrace ++ [(e, .fail)] else s.fileTrace
          seqr := if plays = true then .run [.aClose] true true else .idle
          regs := { s.regs with
            status :=
              if plays = true then s.regs.status
              else
                { s.regs.status with
                  sinkOpen := if aborting = true ∨ e = .aClose then false else s.regs.status.sinkOpen
                  err := 4
                  done := true
                  busy := false } } }

/-- R177, R190: a script that every sink answers with Ok runs to its end in one step an event: then the command has ended with OK,
PROGRESS has grown by the length of the script, and the traces have taken its events in order; after a script of legal form the
audio sink is released. -/
def Obligations.ScriptEndsWhenAllAnswersAreOk : Prop :=
  ∀ (s : State) (script : List Event) (opened : Bool) (later : List Input),
    s.seqr = .run script opened false → script ≠ [] →
    s.inputs = List.replicate script.length (.answer .ok) ++ later →
      ∃ t, Host.Core.run Sys2Proof.core script.length s = .next t ∧
        t = { s with
          inputs := later
          seqr := .idle
          audioTrace := s.audioTrace ++ traceOf .audio .ok script
          fileTrace := s.fileTrace ++ traceOf .file .ok script
          regs := { s.regs with
            progress := s.regs.progress + BitVec.ofNat 32 script.length
            status := { s.regs.status with
              err := 0, done := true, busy := false, sinkOpen := t.regs.status.sinkOpen } } } ∧
        (s.seqr.legal = true → s.regs.status.sinkOpen = opened → t.regs.status.sinkOpen = false)

/-- R175, R190: when the event e of a script fails after n Ok answers, PROGRESS has grown by n and no later event is offered. If e is
AOpen, AClose or FWrite, the command has ended with SINK_FAILURE (4) and no sink held; if e is APlay or APause, only the releasing
AClose remains, and after it, answered Ok or Fail, the command has ended with SINK_FAILURE, no sink held and PROGRESS the same. -/
def Obligations.FirstFailureEndsTheScript : Prop :=
  ∀ (s : State) (before : List Event) (e : Event) (after : List Event) (opened : Bool) (later : List Input),
    s.seqr = .run (before ++ e :: after) opened false → s.seqr.legal = true → s.regs.status.sinkOpen = opened →
    s.inputs = List.replicate before.length (.answer .ok) ++ .answer .fail :: later →
      ∃ t, Host.Core.run Sys2Proof.core (before.length + 1) s = .next t ∧
        t = { s with
          inputs := later
          seqr := t.seqr
          audioTrace := s.audioTrace ++ traceOf .audio .ok before ++ traceOf .audio .fail [e]
          fileTrace := s.fileTrace ++ traceOf .file .ok before ++ traceOf .file .fail [e]
          regs := { s.regs with
            progress := s.regs.progress + BitVec.ofNat 32 before.length
            status := { t.regs.status with wviol := s.regs.status.wviol, aerr := s.regs.status.aerr } } } ∧
        ((e = .aOpen ∨ e = .aClose ∨ ∃ id b sr, e = .fWrite id b sr) →
          t.seqr = .idle ∧ t.regs.status.err = 4 ∧ t.regs.status.done = true ∧ t.regs.status.busy = false ∧
            t.regs.status.sinkOpen = false) ∧
        (((∃ b sr, e = .aPlay b sr) ∨ ∃ d, e = .aPause d) →
          t.seqr = .run [.aClose] true true ∧
            ∀ r later', later = .answer r :: later' →
              ∃ u, step t = .next u ∧ u.seqr = .idle ∧ u.regs.status.err = 4 ∧ u.regs.status.done = true ∧
                u.regs.status.busy = false ∧ u.regs.status.sinkOpen = false ∧
                u.regs.progress = t.regs.progress ∧ u.audioTrace = t.audioTrace ++ [(.aClose, r)] ∧
                u.fileTrace = t.fileTrace)

/-! ### Whole-machine rules -/

/-- R23, R25 to R28, R45, R47, R48, R51: every step keeps the invariant: canonical memory with storage for buffer bytes only, BUSY
exactly while a script runs, SINK_OPEN equal to `opened`, a script of legal form, no ERR code above 6, DONE and ERR 0
while a script runs, a nonzero ERR only with DONE, PKT_LEN at most 65618, and PROGRESS within its bound. -/
def Obligations.EveryStepKeepsTheInvariant : Prop :=
  ∀ s t : State, Inv s → step s = .next t → Inv t

/-- R171, R175, R176, R232: every step keeps the audio sink's protocol over the events since the last reset: events only between an
AOpen answered Ok and its AClose, the releasing AClose right after a failed APlay or APause, and everything acquired since that
reset released whenever SEQR is Idle. That a reset empties the trace is the model's reading of R232 (log 12); what a reset in a
running script leaves in the device is out of it (R230, log 19). -/
def Obligations.EveryStepKeepsTheSinkProtocol : Prop :=
  ∀ s t : State, Inv s → AudioReleased s → step s = .next t → AudioReleased t

/-- The reset state, under every CFG_RESET, meets the invariant and the sink's protocol. -/
def Obligations.ResetMeetsInvariantAndProtocol : Prop :=
  (∀ c : CfgReset, Inv (State.resetWith c) ∧ AudioReleased (State.resetWith c)) ∧
  Inv State.reset ∧ AudioReleased State.reset

/-- R62, R65, R188: while a script runs, a step that is no reset changes no operand, no configuration register and no buffer byte;
and a host transaction leaves SEQR and PROGRESS alone, so the host cannot stop, change or advance the script. -/
def Obligations.RunningScriptIsFrozen : Prop :=
  ∀ s t : State, Inv s → s.seqr.running = true → (∀ rest, s.inputs ≠ .reset :: rest) → step s = .next t →
    t.mem = s.mem ∧ t.drawEpoch = s.drawEpoch ∧
    t.regs = { s.regs with status := t.regs.status, progress := t.regs.progress } ∧
    (∀ w rest, s.inputs = .bus w :: rest → t.seqr = s.seqr ∧ t.regs.progress = s.regs.progress)

/-- R204, R217: a command that ends with an error in its acceptance step has changed only CMD, STATUS and PROGRESS (and SEQR, to
Idle, and what the bus returns), with PROGRESS 0 and no sink event. -/
def Obligations.ValidationErrorsChangeOnlyStatus : Prop :=
  ∀ (s t : State) (w : Word),
    s.regs.status.busy = false → exec (.wr32 0x00 w) s = .next t → t.regs.status.err ≠ 0 →
      t = { s with
        hostData := none
        seqr := .idle
        regs := { s.regs with
          cmd := w
          progress := 0
          status := { s.regs.status with err := t.regs.status.err, done := true, busy := false } } } ∧
      t.regs.status.err ∈ [1, 2, 3, 5, 6]

/-- R52, R32: bytes of MSG at or beyond MSG_LEN are ignored: two states that differ in them only leave every command the same
registers, the same script, the same byte at every other address (CKSUM and PKT among them), and the same everything else. -/
def Obligations.BytesBeyondTheMessageAreIgnored : Prop :=
  ∀ (c : Cmd) (s t t' : State) (m : List Host.Cell),
    Memory.wf s.mem = true → Memory.wf m = true →
    (∀ a, ¬(0x00010000 + s.regs.msgLen.toNat ≤ a ∧ a ≤ 0x0001FFFE) → ({ s with mem := m } : State).readByte a = s.readByte a) →
    exec c.toInstr s = .next t → exec c.toInstr { s with mem := m } = .next t' →
      t' = { t with mem := t'.mem } ∧
      ∀ a, ¬(0x00010000 + s.regs.msgLen.toNat ≤ a ∧ a ≤ 0x0001FFFE) → t'.readByte a = t.readByte a

/-! ### Reset (spec/70_reset_and_hazards.md) -/

/-- R231, R232: every register at its reset value, the six parameters from CFG_RESET, SEQR Idle and both traces empty. -/
def Obligations.ResetSetsEveryRegister : Prop :=
  ∀ c : CfgReset,
    (State.resetWith c).regs =
      { cmd := 0
        status := { busy := false, done := false, err := 0, wviol := false, aerr := false, sinkOpen := false }
        msgLen := 0, srcAddr := 0, txAddr := c.txAddr, seq := 0, redundancy := c.redundancy
        sampleRate := c.sampleRate, bitDur := c.bitDur, durMult := 0x00030000, fHigh := c.fHigh, fLow := 0
        pause := c.pause, toneDur := 0, toneFreq := 0, srcTextLen := 0, txTextLen := 0, pktLen := 0, fileId := 0
        progress := 0 } ∧
    (State.resetWith c).seqr = .idle ∧ (State.resetWith c).audioTrace = [] ∧ (State.resetWith c).fileTrace = [] ∧
    State.reset = State.resetWith Config.cfgReset

/-- R230, R232, R233: the reset input, in any state, gives the reset registers, Idle, empty traces, and buffers whose every byte is a
free draw of this reset, with a draw number other than the one before. That the six parameters have the same values at every reset
(log 4), which number the draws carry (log 7), and that the environment's later inputs remain (log 15) are the model's choices. -/
def Obligations.ResetInputRestoresReset : Prop :=
  ∀ (s : State) (rest : List Input),
    s.inputs = .reset :: rest →
      ∃ t, step s = .next t ∧ t.regs = State.reset.regs ∧ t.seqr = .idle ∧ t.audioTrace = [] ∧ t.fileTrace = [] ∧
        t.inputs = rest ∧ t.drawEpoch ≠ s.drawEpoch ∧ ∀ a, t.readByte a = Config.resetByte t.drawEpoch a
end

