-- ==== Sys2Proof/Laws/Memory.lean ====
section
/-! SUPPORT. The laws of buffer memory: what a read after a write gives, and that every write keeps the canonical form. -/

namespace Sys2Proof.Machine

@[simp] theorem Memory_get?_nil (a : Nat) : Memory.get? [] a = none := rfl

/-- A read after a write of one byte. -/
theorem Memory_get?_put (m : List Host.Cell) (a a' : Nat) (v : Byte) (h : Memory.wf m = true) :
    Memory.get? (Memory.put m a v) a' = if a' = a then some v else Memory.get? m a' := by
  induction m with
  | nil => simp [Memory.put, Memory.get?, eq_comm]
  | cons c m ih =>
    obtain ⟨k, b⟩ := c
    have hm : Memory.wf m = true := by
      cases m with
      | nil => rfl
      | cons c' m' => simp [Memory.wf] at h; exact h.2
    simp only [Memory.put]
    split
    · simp only [Memory.get?, eq_comm (a := a)]
    · split
      · subst_vars
        simp only [Memory.get?, eq_comm (a := a')]
        split <;> simp_all
      · simp only [Memory.get?, ih hm]
        split
        · have : a' ≠ a := by omega
          simp [this]
        · rfl

/-- The first address of a canonical memory bounds the rest. -/
theorem Memory_wf_cons_iff (k : Nat) (b : Byte) (m : List Host.Cell) :
    Memory.wf ((k, b) :: m) = true ↔ (∀ c ∈ m.head?, k < c.1) ∧ Memory.wf m = true := by
  cases m with
  | nil => simp [Memory.wf]
  | cons c m => simp [Memory.wf]

/-- The first address after a write is the written one or the old first one. -/
theorem Memory_put_head (m : List Host.Cell) (a : Nat) (v : Byte) :
    ∀ c ∈ (Memory.put m a v).head?, c.1 = a ∨ ∃ c' ∈ m.head?, c.1 = c'.1 := by
  cases m with
  | nil => simp [Memory.put]
  | cons c m =>
    obtain ⟨k, b⟩ := c
    simp only [Memory.put]
    split
    · simp
    · split <;> simp

/-- A write keeps the canonical form. -/
theorem Memory_put_wf (m : List Host.Cell) (a : Nat) (v : Byte) (h : Memory.wf m = true) :
    Memory.wf (Memory.put m a v) = true := by
  induction m with
  | nil => rfl
  | cons c m ih =>
    obtain ⟨k, b⟩ := c
    have hc := (Memory_wf_cons_iff k b m).mp h
    simp only [Memory.put]
    split
    · exact (Memory_wf_cons_iff _ _ _).mpr ⟨by simpa using ‹a < k›, h⟩
    · split
      · subst_vars
        exact (Memory_wf_cons_iff _ _ _).mpr hc
      · refine (Memory_wf_cons_iff _ _ _).mpr ⟨fun c hcm => ?_, ih hc.2⟩
        rcases Memory_put_head m a v c hcm with h' | ⟨c', hc', h'⟩
        · omega
        · have := hc.1 c' hc'
          omega

/-- What a write lists is the written address or was listed before. -/
theorem Memory_mem_put (m : List Host.Cell) (a : Nat) (v : Byte) (c : Host.Cell) (h : c ∈ Memory.put m a v) :
    c.1 = a ∨ c ∈ m := by
  induction m with
  | nil => simp [Memory.put] at h; simp [h]
  | cons c' m ih =>
    obtain ⟨k, b⟩ := c'
    simp only [Memory.put] at h
    split at h
    · rcases List.mem_cons.mp h with rfl | h' <;> simp_all
    · split at h
      · rcases List.mem_cons.mp h with rfl | h' <;> simp_all
      · rcases List.mem_cons.mp h with rfl | h'
        · simp
        · rcases ih h' with h'' | h'' <;> simp [h'']

/-- A write of several bytes keeps the canonical form. -/
theorem Memory_putList_wf (m : List Host.Cell) (a : Nat) (vs : List Byte) (h : Memory.wf m = true) :
    Memory.wf (Memory.putList m a vs) = true := by
  induction vs generalizing m a with
  | nil => exact h
  | cons v vs ih => exact ih _ _ (Memory_put_wf m a v h)

/-- What a write of several bytes lists lies in the written range or was listed before. -/
theorem Memory_mem_putList (m : List Host.Cell) (a : Nat) (vs : List Byte) (c : Host.Cell)
    (h : c ∈ Memory.putList m a vs) : (a ≤ c.1 ∧ c.1 < a + vs.length) ∨ c ∈ m := by
  induction vs generalizing m a with
  | nil => exact .inr h
  | cons v vs ih =>
    rcases ih _ _ h with h' | h'
    · left; simp only [List.length_cons]; omega
    · rcases Memory_mem_put m a v c h' with h'' | h''
      · left; simp only [List.length_cons]; omega
      · exact .inr h''

/-- A read after a write of several bytes. -/
theorem Memory_get?_putList (m : List Host.Cell) (a a' : Nat) (vs : List Byte) (h : Memory.wf m = true) :
    Memory.get? (Memory.putList m a vs) a' =
      if a ≤ a' ∧ a' < a + vs.length then vs[a' - a]? else Memory.get? m a' := by
  induction vs generalizing m a with
  | nil => simp [Memory.putList]
  | cons v vs ih =>
    simp only [Memory.putList, ih _ _ (Memory_put_wf m a v h), Memory_get?_put m a a' v h, List.length_cons]
    by_cases h1 : a' = a
    · subst h1; simp
    · by_cases h2 : a + 1 ≤ a' ∧ a' < a + 1 + vs.length
      · have h3 : a ≤ a' ∧ a' < a + (vs.length + 1) := by omega
        have h4 : a' - a = (a' - (a + 1)) + 1 := by omega
        simp only [h2, h3, and_self, if_true, h4, List.getElem?_cons_succ]
      · have h3 : ¬(a ≤ a' ∧ a' < a + (vs.length + 1)) := by omega
        rw [if_neg h2, if_neg h3, if_neg h1]

/-- Memory at reset lists nothing, so it is in the canonical form. -/
theorem State_reset_mem_wf : Memory.wf State.reset.mem = true := rfl

end Sys2Proof.Machine
end

