-- ==== Sys2Proof/Laws/State.lean ====
section
/-! SUPPORT. What each state update does to each field of State and to each field of STATUS: one lemma a field. -/

namespace Sys2Proof.Machine

/-! ### The updates as record updates

Proofs rewrite with these instead of asking `rfl` of a state whose fields hold long computations. -/

theorem setStatus_eq (st : Status) (s : State) : setStatus st s = { s with regs := { s.regs with status := st } } := rfl

theorem setReg_eq (r : Reg) (v : Word) (s : State) : setReg r v s = { s with regs := s.regs.set r v } := rfl

theorem finish_eq (e : ErrCode) (s : State) :
    finish e s =
      { s with
        seqr := .idle
        regs := { s.regs with status := { s.regs.status with err := e.code, done := true, busy := false } } } := rfl

theorem start_eq (es : List Event) (s : State) :
    start es s =
      { s with
        seqr := .run es false false
        regs := { s.regs with status := { s.regs.status with busy := true } } } := rfl

theorem memWrite_eq (X : Buf) (o : Nat) (v : List Byte) (s : State) :
    memWrite X o v s = { s with mem := Memory.putList s.mem (X.base + o) v } := rfl

theorem storeChecksum_eq (s : State) : storeChecksum s = memWrite .cksum 0 (checksumText s.message) s := by
  unfold storeChecksum; rfl

/-- A buffer write changes the memory and nothing else. -/
theorem memWrite_mem_only (X : Buf) (o : Nat) (v : List Byte) (s : State) :
    memWrite X o v s = { s with mem := (memWrite X o v s).mem } := rfl

/-- Storing the checksum changes the memory and nothing else. -/
theorem storeChecksum_mem_only (s : State) : storeChecksum s = { s with mem := (storeChecksum s).mem } := by
  rw [storeChecksum_eq]; exact memWrite_mem_only _ _ _ _

/-! ### setStatus -/

@[simp] theorem setStatus_regs (st : Status) (s : State) : (setStatus st s).regs = { s.regs with status := st } := rfl
@[simp] theorem setStatus_mem (st : Status) (s : State) : (setStatus st s).mem = s.mem := rfl
@[simp] theorem setStatus_seqr (st : Status) (s : State) : (setStatus st s).seqr = s.seqr := rfl
@[simp] theorem setStatus_inputs (st : Status) (s : State) : (setStatus st s).inputs = s.inputs := rfl
@[simp] theorem setStatus_hostData (st : Status) (s : State) : (setStatus st s).hostData = s.hostData := rfl
@[simp] theorem setStatus_audioTrace (st : Status) (s : State) : (setStatus st s).audioTrace = s.audioTrace := rfl
@[simp] theorem setStatus_fileTrace (st : Status) (s : State) : (setStatus st s).fileTrace = s.fileTrace := rfl
@[simp] theorem setStatus_drawEpoch (st : Status) (s : State) : (setStatus st s).drawEpoch = s.drawEpoch := rfl

/-! ### setReg -/

@[simp] theorem setReg_regs (r : Reg) (v : Word) (s : State) : (setReg r v s).regs = s.regs.set r v := rfl
@[simp] theorem setReg_mem (r : Reg) (v : Word) (s : State) : (setReg r v s).mem = s.mem := rfl
@[simp] theorem setReg_seqr (r : Reg) (v : Word) (s : State) : (setReg r v s).seqr = s.seqr := rfl
@[simp] theorem setReg_inputs (r : Reg) (v : Word) (s : State) : (setReg r v s).inputs = s.inputs := rfl
@[simp] theorem setReg_hostData (r : Reg) (v : Word) (s : State) : (setReg r v s).hostData = s.hostData := rfl
@[simp] theorem setReg_audioTrace (r : Reg) (v : Word) (s : State) : (setReg r v s).audioTrace = s.audioTrace := rfl
@[simp] theorem setReg_fileTrace (r : Reg) (v : Word) (s : State) : (setReg r v s).fileTrace = s.fileTrace := rfl
@[simp] theorem setReg_drawEpoch (r : Reg) (v : Word) (s : State) : (setReg r v s).drawEpoch = s.drawEpoch := rfl

/-! ### finish -/

@[simp] theorem finish_regs (e : ErrCode) (s : State) : (finish e s).regs = { s.regs with status := s.regs.status.finished e } := rfl
@[simp] theorem finish_mem (e : ErrCode) (s : State) : (finish e s).mem = s.mem := rfl
@[simp] theorem finish_seqr (e : ErrCode) (s : State) : (finish e s).seqr = .idle := rfl
@[simp] theorem finish_inputs (e : ErrCode) (s : State) : (finish e s).inputs = s.inputs := rfl
@[simp] theorem finish_hostData (e : ErrCode) (s : State) : (finish e s).hostData = s.hostData := rfl
@[simp] theorem finish_audioTrace (e : ErrCode) (s : State) : (finish e s).audioTrace = s.audioTrace := rfl
@[simp] theorem finish_fileTrace (e : ErrCode) (s : State) : (finish e s).fileTrace = s.fileTrace := rfl
@[simp] theorem finish_drawEpoch (e : ErrCode) (s : State) : (finish e s).drawEpoch = s.drawEpoch := rfl

/-! ### clearStatus -/

@[simp] theorem clearStatus_regs (d : Word) (s : State) : (clearStatus d s).regs = { s.regs with status := s.regs.status.w1c d } := rfl
@[simp] theorem clearStatus_mem (d : Word) (s : State) : (clearStatus d s).mem = s.mem := rfl
@[simp] theorem clearStatus_seqr (d : Word) (s : State) : (clearStatus d s).seqr = s.seqr := rfl
@[simp] theorem clearStatus_inputs (d : Word) (s : State) : (clearStatus d s).inputs = s.inputs := rfl
@[simp] theorem clearStatus_hostData (d : Word) (s : State) : (clearStatus d s).hostData = s.hostData := rfl
@[simp] theorem clearStatus_audioTrace (d : Word) (s : State) : (clearStatus d s).audioTrace = s.audioTrace := rfl
@[simp] theorem clearStatus_fileTrace (d : Word) (s : State) : (clearStatus d s).fileTrace = s.fileTrace := rfl
@[simp] theorem clearStatus_drawEpoch (d : Word) (s : State) : (clearStatus d s).drawEpoch = s.drawEpoch := rfl

/-! ### beginCommand -/

@[simp] theorem beginCommand_regs (w : Word) (s : State) : (beginCommand w s).regs = { s.regs with cmd := w, status := s.regs.status.accepted, progress := 0 } := rfl
@[simp] theorem beginCommand_mem (w : Word) (s : State) : (beginCommand w s).mem = s.mem := rfl
@[simp] theorem beginCommand_seqr (w : Word) (s : State) : (beginCommand w s).seqr = s.seqr := rfl
@[simp] theorem beginCommand_inputs (w : Word) (s : State) : (beginCommand w s).inputs = s.inputs := rfl
@[simp] theorem beginCommand_hostData (w : Word) (s : State) : (beginCommand w s).hostData = s.hostData := rfl
@[simp] theorem beginCommand_audioTrace (w : Word) (s : State) : (beginCommand w s).audioTrace = s.audioTrace := rfl
@[simp] theorem beginCommand_fileTrace (w : Word) (s : State) : (beginCommand w s).fileTrace = s.fileTrace := rfl
@[simp] theorem beginCommand_drawEpoch (w : Word) (s : State) : (beginCommand w s).drawEpoch = s.drawEpoch := rfl

/-! ### start -/

@[simp] theorem start_regs (es : List Event) (s : State) : (start es s).regs = { s.regs with status := s.regs.status.started } := rfl
@[simp] theorem start_mem (es : List Event) (s : State) : (start es s).mem = s.mem := rfl
@[simp] theorem start_seqr (es : List Event) (s : State) : (start es s).seqr = .run es false false := rfl
@[simp] theorem start_inputs (es : List Event) (s : State) : (start es s).inputs = s.inputs := rfl
@[simp] theorem start_hostData (es : List Event) (s : State) : (start es s).hostData = s.hostData := rfl
@[simp] theorem start_audioTrace (es : List Event) (s : State) : (start es s).audioTrace = s.audioTrace := rfl
@[simp] theorem start_fileTrace (es : List Event) (s : State) : (start es s).fileTrace = s.fileTrace := rfl
@[simp] theorem start_drawEpoch (es : List Event) (s : State) : (start es s).drawEpoch = s.drawEpoch := rfl

/-! ### respond -/

@[simp] theorem respond_regs (v : Word) (s : State) : (respond v s).regs = s.regs := rfl
@[simp] theorem respond_mem (v : Word) (s : State) : (respond v s).mem = s.mem := rfl
@[simp] theorem respond_seqr (v : Word) (s : State) : (respond v s).seqr = s.seqr := rfl
@[simp] theorem respond_inputs (v : Word) (s : State) : (respond v s).inputs = s.inputs := rfl
@[simp] theorem respond_hostData (v : Word) (s : State) : (respond v s).hostData = some v := rfl
@[simp] theorem respond_audioTrace (v : Word) (s : State) : (respond v s).audioTrace = s.audioTrace := rfl
@[simp] theorem respond_fileTrace (v : Word) (s : State) : (respond v s).fileTrace = s.fileTrace := rfl
@[simp] theorem respond_drawEpoch (v : Word) (s : State) : (respond v s).drawEpoch = s.drawEpoch := rfl

/-! ### noResponse -/

@[simp] theorem noResponse_regs (s : State) : (noResponse s).regs = s.regs := rfl
@[simp] theorem noResponse_mem (s : State) : (noResponse s).mem = s.mem := rfl
@[simp] theorem noResponse_seqr (s : State) : (noResponse s).seqr = s.seqr := rfl
@[simp] theorem noResponse_inputs (s : State) : (noResponse s).inputs = s.inputs := rfl
@[simp] theorem noResponse_hostData (s : State) : (noResponse s).hostData = none := rfl
@[simp] theorem noResponse_audioTrace (s : State) : (noResponse s).audioTrace = s.audioTrace := rfl
@[simp] theorem noResponse_fileTrace (s : State) : (noResponse s).fileTrace = s.fileTrace := rfl
@[simp] theorem noResponse_drawEpoch (s : State) : (noResponse s).drawEpoch = s.drawEpoch := rfl

/-! ### refuseRead -/

@[simp] theorem refuseRead_regs (s : State) : (refuseRead s).regs = { s.regs with status := s.regs.status.readRefused } := rfl
@[simp] theorem refuseRead_mem (s : State) : (refuseRead s).mem = s.mem := rfl
@[simp] theorem refuseRead_seqr (s : State) : (refuseRead s).seqr = s.seqr := rfl
@[simp] theorem refuseRead_inputs (s : State) : (refuseRead s).inputs = s.inputs := rfl
@[simp] theorem refuseRead_hostData (s : State) : (refuseRead s).hostData = some 0 := rfl
@[simp] theorem refuseRead_audioTrace (s : State) : (refuseRead s).audioTrace = s.audioTrace := rfl
@[simp] theorem refuseRead_fileTrace (s : State) : (refuseRead s).fileTrace = s.fileTrace := rfl
@[simp] theorem refuseRead_drawEpoch (s : State) : (refuseRead s).drawEpoch = s.drawEpoch := rfl

/-! ### refuseWrite -/

@[simp] theorem refuseWrite_regs (s : State) : (refuseWrite s).regs = { s.regs with status := s.regs.status.writeRefused } := rfl
@[simp] theorem refuseWrite_mem (s : State) : (refuseWrite s).mem = s.mem := rfl
@[simp] theorem refuseWrite_seqr (s : State) : (refuseWrite s).seqr = s.seqr := rfl
@[simp] theorem refuseWrite_inputs (s : State) : (refuseWrite s).inputs = s.inputs := rfl
@[simp] theorem refuseWrite_hostData (s : State) : (refuseWrite s).hostData = none := rfl
@[simp] theorem refuseWrite_audioTrace (s : State) : (refuseWrite s).audioTrace = s.audioTrace := rfl
@[simp] theorem refuseWrite_fileTrace (s : State) : (refuseWrite s).fileTrace = s.fileTrace := rfl
@[simp] theorem refuseWrite_drawEpoch (s : State) : (refuseWrite s).drawEpoch = s.drawEpoch := rfl

/-! ### discardWrite -/

@[simp] theorem discardWrite_regs (s : State) : (discardWrite s).regs = { s.regs with status := s.regs.status.writeDiscarded } := rfl
@[simp] theorem discardWrite_mem (s : State) : (discardWrite s).mem = s.mem := rfl
@[simp] theorem discardWrite_seqr (s : State) : (discardWrite s).seqr = s.seqr := rfl
@[simp] theorem discardWrite_inputs (s : State) : (discardWrite s).inputs = s.inputs := rfl
@[simp] theorem discardWrite_hostData (s : State) : (discardWrite s).hostData = none := rfl
@[simp] theorem discardWrite_audioTrace (s : State) : (discardWrite s).audioTrace = s.audioTrace := rfl
@[simp] theorem discardWrite_fileTrace (s : State) : (discardWrite s).fileTrace = s.fileTrace := rfl
@[simp] theorem discardWrite_drawEpoch (s : State) : (discardWrite s).drawEpoch = s.drawEpoch := rfl

/-! ### memWrite -/

@[simp] theorem memWrite_regs (X : Buf) (o : Nat) (v : List Byte) (s : State) : (memWrite X o v s).regs = s.regs := rfl
@[simp] theorem memWrite_mem (X : Buf) (o : Nat) (v : List Byte) (s : State) : (memWrite X o v s).mem = Memory.putList s.mem (X.base + o) v := rfl
@[simp] theorem memWrite_seqr (X : Buf) (o : Nat) (v : List Byte) (s : State) : (memWrite X o v s).seqr = s.seqr := rfl
@[simp] theorem memWrite_inputs (X : Buf) (o : Nat) (v : List Byte) (s : State) : (memWrite X o v s).inputs = s.inputs := rfl
@[simp] theorem memWrite_hostData (X : Buf) (o : Nat) (v : List Byte) (s : State) : (memWrite X o v s).hostData = s.hostData := rfl
@[simp] theorem memWrite_audioTrace (X : Buf) (o : Nat) (v : List Byte) (s : State) : (memWrite X o v s).audioTrace = s.audioTrace := rfl
@[simp] theorem memWrite_fileTrace (X : Buf) (o : Nat) (v : List Byte) (s : State) : (memWrite X o v s).fileTrace = s.fileTrace := rfl
@[simp] theorem memWrite_drawEpoch (X : Buf) (o : Nat) (v : List Byte) (s : State) : (memWrite X o v s).drawEpoch = s.drawEpoch := rfl

/-! ### setSinkOpen -/

@[simp] theorem setSinkOpen_regs (b : Bool) (s : State) : (setSinkOpen b s).regs = { s.regs with status := s.regs.status.withSinkOpen b } := rfl
@[simp] theorem setSinkOpen_mem (b : Bool) (s : State) : (setSinkOpen b s).mem = s.mem := rfl
@[simp] theorem setSinkOpen_seqr (b : Bool) (s : State) : (setSinkOpen b s).seqr = s.seqr := rfl
@[simp] theorem setSinkOpen_inputs (b : Bool) (s : State) : (setSinkOpen b s).inputs = s.inputs := rfl
@[simp] theorem setSinkOpen_hostData (b : Bool) (s : State) : (setSinkOpen b s).hostData = s.hostData := rfl
@[simp] theorem setSinkOpen_audioTrace (b : Bool) (s : State) : (setSinkOpen b s).audioTrace = s.audioTrace := rfl
@[simp] theorem setSinkOpen_fileTrace (b : Bool) (s : State) : (setSinkOpen b s).fileTrace = s.fileTrace := rfl
@[simp] theorem setSinkOpen_drawEpoch (b : Bool) (s : State) : (setSinkOpen b s).drawEpoch = s.drawEpoch := rfl

/-! ### advanceProgress -/

@[simp] theorem advanceProgress_regs (s : State) : (advanceProgress s).regs = { s.regs with progress := s.regs.progress + 1 } := rfl
@[simp] theorem advanceProgress_mem (s : State) : (advanceProgress s).mem = s.mem := rfl
@[simp] theorem advanceProgress_seqr (s : State) : (advanceProgress s).seqr = s.seqr := rfl
@[simp] theorem advanceProgress_inputs (s : State) : (advanceProgress s).inputs = s.inputs := rfl
@[simp] theorem advanceProgress_hostData (s : State) : (advanceProgress s).hostData = s.hostData := rfl
@[simp] theorem advanceProgress_audioTrace (s : State) : (advanceProgress s).audioTrace = s.audioTrace := rfl
@[simp] theorem advanceProgress_fileTrace (s : State) : (advanceProgress s).fileTrace = s.fileTrace := rfl
@[simp] theorem advanceProgress_drawEpoch (s : State) : (advanceProgress s).drawEpoch = s.drawEpoch := rfl

/-! ### storeChecksum -/

@[simp] theorem storeChecksum_regs (s : State) : (storeChecksum s).regs = s.regs := by
  simp only [storeChecksum, memWrite_regs]
@[simp] theorem storeChecksum_mem (s : State) : (storeChecksum s).mem = Memory.putList s.mem (Buf.cksum.base + 0) (checksumText s.message) := by
  simp only [storeChecksum, memWrite_mem]
@[simp] theorem storeChecksum_seqr (s : State) : (storeChecksum s).seqr = s.seqr := by
  simp only [storeChecksum, memWrite_seqr]
@[simp] theorem storeChecksum_inputs (s : State) : (storeChecksum s).inputs = s.inputs := by
  simp only [storeChecksum, memWrite_inputs]
@[simp] theorem storeChecksum_hostData (s : State) : (storeChecksum s).hostData = s.hostData := by
  simp only [storeChecksum, memWrite_hostData]
@[simp] theorem storeChecksum_audioTrace (s : State) : (storeChecksum s).audioTrace = s.audioTrace := by
  simp only [storeChecksum, memWrite_audioTrace]
@[simp] theorem storeChecksum_fileTrace (s : State) : (storeChecksum s).fileTrace = s.fileTrace := by
  simp only [storeChecksum, memWrite_fileTrace]
@[simp] theorem storeChecksum_drawEpoch (s : State) : (storeChecksum s).drawEpoch = s.drawEpoch := by
  simp only [storeChecksum, memWrite_drawEpoch]

/-! ### recordAnswer -/

@[simp] theorem recordAnswer_regs (e : Event) (r : Answer) (s : State) : (recordAnswer e r s).regs = s.regs := by
  unfold recordAnswer; split <;> rfl
@[simp] theorem recordAnswer_mem (e : Event) (r : Answer) (s : State) : (recordAnswer e r s).mem = s.mem := by
  unfold recordAnswer; split <;> rfl
@[simp] theorem recordAnswer_seqr (e : Event) (r : Answer) (s : State) : (recordAnswer e r s).seqr = s.seqr := by
  unfold recordAnswer; split <;> rfl
@[simp] theorem recordAnswer_inputs (e : Event) (r : Answer) (s : State) : (recordAnswer e r s).inputs = s.inputs := by
  unfold recordAnswer; split <;> rfl
@[simp] theorem recordAnswer_hostData (e : Event) (r : Answer) (s : State) : (recordAnswer e r s).hostData = s.hostData := by
  unfold recordAnswer; split <;> rfl
@[simp] theorem recordAnswer_drawEpoch (e : Event) (r : Answer) (s : State) : (recordAnswer e r s).drawEpoch = s.drawEpoch := by
  unfold recordAnswer; split <;> rfl

theorem recordAnswer_audioTrace (e : Event) (r : Answer) (s : State) :
    (recordAnswer e r s).audioTrace = if e.sink = .audio then s.audioTrace ++ [(e, r)] else s.audioTrace := by
  unfold recordAnswer; split <;> simp_all

theorem recordAnswer_fileTrace (e : Event) (r : Answer) (s : State) :
    (recordAnswer e r s).fileTrace = if e.sink = .file then s.fileTrace ++ [(e, r)] else s.fileTrace := by
  unfold recordAnswer; split <;> simp_all

/-! ### Registers -/

@[simp] theorem Regs_set_status (g : Regs) (r : Reg) (v : Word) : (g.set r v).status = g.status := by
  cases r <;> rfl

@[simp] theorem Regs_set_cmd (g : Regs) (r : Reg) (v : Word) :
    (g.set r v).cmd = if r = .cmd then v else g.cmd := by
  cases r <;> rfl
@[simp] theorem Regs_set_msgLen (g : Regs) (r : Reg) (v : Word) :
    (g.set r v).msgLen = if r = .msgLen then v else g.msgLen := by
  cases r <;> rfl
@[simp] theorem Regs_set_srcAddr (g : Regs) (r : Reg) (v : Word) :
    (g.set r v).srcAddr = if r = .srcAddr then v else g.srcAddr := by
  cases r <;> rfl
@[simp] theorem Regs_set_txAddr (g : Regs) (r : Reg) (v : Word) :
    (g.set r v).txAddr = if r = .txAddr then v else g.txAddr := by
  cases r <;> rfl
@[simp] theorem Regs_set_seq (g : Regs) (r : Reg) (v : Word) :
    (g.set r v).seq = if r = .seq then v else g.seq := by
  cases r <;> rfl
@[simp] theorem Regs_set_redundancy (g : Regs) (r : Reg) (v : Word) :
    (g.set r v).redundancy = if r = .redundancy then v else g.redundancy := by
  cases r <;> rfl
@[simp] theorem Regs_set_sampleRate (g : Regs) (r : Reg) (v : Word) :
    (g.set r v).sampleRate = if r = .sampleRate then v else g.sampleRate := by
  cases r <;> rfl
@[simp] theorem Regs_set_bitDur (g : Regs) (r : Reg) (v : Word) :
    (g.set r v).bitDur = if r = .bitDur then v else g.bitDur := by
  cases r <;> rfl
@[simp] theorem Regs_set_durMult (g : Regs) (r : Reg) (v : Word) :
    (g.set r v).durMult = if r = .durMult then v else g.durMult := by
  cases r <;> rfl
@[simp] theorem Regs_set_fHigh (g : Regs) (r : Reg) (v : Word) :
    (g.set r v).fHigh = if r = .fHigh then v else g.fHigh := by
  cases r <;> rfl
@[simp] theorem Regs_set_fLow (g : Regs) (r : Reg) (v : Word) :
    (g.set r v).fLow = if r = .fLow then v else g.fLow := by
  cases r <;> rfl
@[simp] theorem Regs_set_pause (g : Regs) (r : Reg) (v : Word) :
    (g.set r v).pause = if r = .pause then v else g.pause := by
  cases r <;> rfl
@[simp] theorem Regs_set_toneDur (g : Regs) (r : Reg) (v : Word) :
    (g.set r v).toneDur = if r = .toneDur then v else g.toneDur := by
  cases r <;> rfl
@[simp] theorem Regs_set_toneFreq (g : Regs) (r : Reg) (v : Word) :
    (g.set r v).toneFreq = if r = .toneFreq then v else g.toneFreq := by
  cases r <;> rfl
@[simp] theorem Regs_set_srcTextLen (g : Regs) (r : Reg) (v : Word) :
    (g.set r v).srcTextLen = if r = .srcTextLen then v else g.srcTextLen := by
  cases r <;> rfl
@[simp] theorem Regs_set_txTextLen (g : Regs) (r : Reg) (v : Word) :
    (g.set r v).txTextLen = if r = .txTextLen then v else g.txTextLen := by
  cases r <;> rfl
@[simp] theorem Regs_set_pktLen (g : Regs) (r : Reg) (v : Word) :
    (g.set r v).pktLen = if r = .pktLen then v else g.pktLen := by
  cases r <;> rfl
@[simp] theorem Regs_set_fileId (g : Regs) (r : Reg) (v : Word) :
    (g.set r v).fileId = if r = .fileId then v else g.fileId := by
  cases r <;> rfl
@[simp] theorem Regs_set_progress (g : Regs) (r : Reg) (v : Word) :
    (g.set r v).progress = if r = .progress then v else g.progress := by
  cases r <;> rfl

/-- A register that stores the word written reads back as it. -/
theorem Regs_get_set_same (g : Regs) (r : Reg) (v : Word) (h : r ≠ .status) : (g.set r v).get r = v := by
  cases r <;> first | rfl | exact absurd rfl h

/-- Writing one register leaves the others. -/
theorem Regs_get_set_other (g : Regs) (r r' : Reg) (v : Word) (h : r' ≠ r) : (g.set r v).get r' = g.get r' := by
  cases r' <;> simp [Regs.get, Ne.symm h]

/-! ### STATUS -/

@[simp] theorem Status_accepted_busy (st : Status) : (st.accepted).busy = st.busy := rfl
@[simp] theorem Status_accepted_done (st : Status) : (st.accepted).done = false := rfl
@[simp] theorem Status_accepted_err (st : Status) : (st.accepted).err = 0 := rfl
@[simp] theorem Status_accepted_wviol (st : Status) : (st.accepted).wviol = st.wviol := rfl
@[simp] theorem Status_accepted_aerr (st : Status) : (st.accepted).aerr = st.aerr := rfl
@[simp] theorem Status_accepted_sinkOpen (st : Status) : (st.accepted).sinkOpen = st.sinkOpen := rfl
@[simp] theorem Status_started_busy (st : Status) : (st.started).busy = true := rfl
@[simp] theorem Status_started_done (st : Status) : (st.started).done = st.done := rfl
@[simp] theorem Status_started_err (st : Status) : (st.started).err = st.err := rfl
@[simp] theorem Status_started_wviol (st : Status) : (st.started).wviol = st.wviol := rfl
@[simp] theorem Status_started_aerr (st : Status) : (st.started).aerr = st.aerr := rfl
@[simp] theorem Status_started_sinkOpen (st : Status) : (st.started).sinkOpen = st.sinkOpen := rfl
@[simp] theorem Status_finished_busy (st : Status) (e : ErrCode) : (st.finished e).busy = false := rfl
@[simp] theorem Status_finished_done (st : Status) (e : ErrCode) : (st.finished e).done = true := rfl
@[simp] theorem Status_finished_err (st : Status) (e : ErrCode) : (st.finished e).err = e.code := rfl
@[simp] theorem Status_finished_wviol (st : Status) (e : ErrCode) : (st.finished e).wviol = st.wviol := rfl
@[simp] theorem Status_finished_aerr (st : Status) (e : ErrCode) : (st.finished e).aerr = st.aerr := rfl
@[simp] theorem Status_finished_sinkOpen (st : Status) (e : ErrCode) : (st.finished e).sinkOpen = st.sinkOpen := rfl
@[simp] theorem Status_withSinkOpen_busy (st : Status) (b : Bool) : (st.withSinkOpen b).busy = st.busy := rfl
@[simp] theorem Status_withSinkOpen_done (st : Status) (b : Bool) : (st.withSinkOpen b).done = st.done := rfl
@[simp] theorem Status_withSinkOpen_err (st : Status) (b : Bool) : (st.withSinkOpen b).err = st.err := rfl
@[simp] theorem Status_withSinkOpen_wviol (st : Status) (b : Bool) : (st.withSinkOpen b).wviol = st.wviol := rfl
@[simp] theorem Status_withSinkOpen_aerr (st : Status) (b : Bool) : (st.withSinkOpen b).aerr = st.aerr := rfl
@[simp] theorem Status_withSinkOpen_sinkOpen (st : Status) (b : Bool) : (st.withSinkOpen b).sinkOpen = b := rfl
@[simp] theorem Status_readRefused_busy (st : Status) : (st.readRefused).busy = st.busy := rfl
@[simp] theorem Status_readRefused_done (st : Status) : (st.readRefused).done = st.done := rfl
@[simp] theorem Status_readRefused_err (st : Status) : (st.readRefused).err = st.err := rfl
@[simp] theorem Status_readRefused_wviol (st : Status) : (st.readRefused).wviol = st.wviol := rfl
@[simp] theorem Status_readRefused_aerr (st : Status) : (st.readRefused).aerr = true := rfl
@[simp] theorem Status_readRefused_sinkOpen (st : Status) : (st.readRefused).sinkOpen = st.sinkOpen := rfl
@[simp] theorem Status_writeRefused_busy (st : Status) : (st.writeRefused).busy = st.busy := rfl
@[simp] theorem Status_writeRefused_done (st : Status) : (st.writeRefused).done = st.done := rfl
@[simp] theorem Status_writeRefused_err (st : Status) : (st.writeRefused).err = st.err := rfl
@[simp] theorem Status_writeRefused_wviol (st : Status) : (st.writeRefused).wviol = (st.wviol || st.busy) := rfl
@[simp] theorem Status_writeRefused_aerr (st : Status) : (st.writeRefused).aerr = true := rfl
@[simp] theorem Status_writeRefused_sinkOpen (st : Status) : (st.writeRefused).sinkOpen = st.sinkOpen := rfl
@[simp] theorem Status_writeDiscarded_busy (st : Status) : (st.writeDiscarded).busy = st.busy := rfl
@[simp] theorem Status_writeDiscarded_done (st : Status) : (st.writeDiscarded).done = st.done := rfl
@[simp] theorem Status_writeDiscarded_err (st : Status) : (st.writeDiscarded).err = st.err := rfl
@[simp] theorem Status_writeDiscarded_wviol (st : Status) : (st.writeDiscarded).wviol = true := rfl
@[simp] theorem Status_writeDiscarded_aerr (st : Status) : (st.writeDiscarded).aerr = st.aerr := rfl
@[simp] theorem Status_writeDiscarded_sinkOpen (st : Status) : (st.writeDiscarded).sinkOpen = st.sinkOpen := rfl
@[simp] theorem Status_w1c_busy (st : Status) (d : Word) : (st.w1c d).busy = st.busy := rfl
@[simp] theorem Status_w1c_done (st : Status) (d : Word) : (st.w1c d).done = (st.done && !d.getLsbD 1) := rfl
@[simp] theorem Status_w1c_err (st : Status) (d : Word) : (st.w1c d).err = (if d.getLsbD 1 then 0 else st.err) := rfl
@[simp] theorem Status_w1c_wviol (st : Status) (d : Word) : (st.w1c d).wviol = (st.wviol && !d.getLsbD 8) := rfl
@[simp] theorem Status_w1c_aerr (st : Status) (d : Word) : (st.w1c d).aerr = (st.aerr && !d.getLsbD 9) := rfl
@[simp] theorem Status_w1c_sinkOpen (st : Status) (d : Word) : (st.w1c d).sinkOpen = st.sinkOpen := rfl

end Sys2Proof.Machine
end

