-- ==== Sys2Proof/Laws/Ops.lean ====
section
/-! SUPPORT. What the shared operations do, said once: buffer reads and writes, the address map, and the register map. -/

namespace Sys2Proof.Machine

/-! ### Bytes -/

/-- Reading a byte depends on the memory and the draws only. -/
theorem readByte_congr (s t : State) (hm : t.mem = s.mem) (hd : t.drawEpoch = s.drawEpoch) (a : Nat) :
    t.readByte a = s.readByte a := by
  simp [State.readByte, hm, hd]

/-- A state with the same memory and draws reads as before at every address. -/
theorem SameBytes_of_eq {s t : State} (hm : t.mem = s.mem) (hd : t.drawEpoch = s.drawEpoch) : SameBytes s t :=
  fun a => readByte_congr s t hm hd a

/-- `MemWrite` stores its bytes and leaves every other byte. -/
theorem readByte_memWrite (X : Buf) (o : Nat) (v : List Byte) (s : State) (h : Memory.wf s.mem = true) (a : Nat) :
    (memWrite X o v s).readByte a =
      if X.base + o ≤ a ∧ a < X.base + o + v.length then v.getD (a - (X.base + o)) 0 else s.readByte a := by
  simp only [State.readByte, memWrite_mem, memWrite_drawEpoch, Memory_get?_putList _ _ _ _ h]
  split
  · have : a - (X.base + o) < v.length := by omega
    simp [this]
  · rfl

theorem BytesStored_memWrite (X : Buf) (o : Nat) (v : List Byte) (s : State) (h : Memory.wf s.mem = true) :
    BytesStored s (memWrite X o v s) (X.base + o) v := readByte_memWrite X o v s h

@[simp] theorem memRead_length (X : Buf) (o n : Nat) (s : State) : (memRead X o n s).length = n := by
  simp [memRead]

theorem memRead_getElem (X : Buf) (o n : Nat) (s : State) (i : Nat) (h : i < (memRead X o n s).length) :
    (memRead X o n s)[i] = s.readByte (X.base + o + i) := by
  simp [memRead]

/-- Two states that read alike over the range read the same bytes. -/
theorem memRead_congr (X : Buf) (o n : Nat) (s t : State)
    (h : ∀ i, i < n → t.readByte (X.base + o + i) = s.readByte (X.base + o + i)) :
    memRead X o n t = memRead X o n s :=
  List.map_congr_left fun i hi => h i (List.mem_range.mp hi)

/-! ### The address map -/

theorem Buf_holds_iff (X : Buf) (a : Nat) : X.holds a = true ↔ X.base ≤ a ∧ a < X.base + X.size := by
  simp [Buf.holds]

/-- An address of a buffer is an address of some buffer. -/
theorem inSomeBuffer_of_holds (X : Buf) (a : Nat) (h : X.holds a = true) : inSomeBuffer a = true := by
  cases X <;> simp [inSomeBuffer, h]

/-- `bufAt` answers a buffer that holds the address, with the offset in it. -/
theorem bufAt_eq_some {a : Word} {X : Buf} {o : Nat} (h : bufAt a = some (X, o)) :
    X.holds a.toNat = true ∧ o = a.toNat - X.base ∧ X.base + o = a.toNat := by
  simp only [bufAt, Option.map_eq_some_iff, Prod.mk.injEq] at h
  obtain ⟨Y, hY, rfl, rfl⟩ := h
  have hp := List.find?_some hY
  exact ⟨hp, rfl, by have := (Buf_holds_iff _ _).mp hp; omega⟩

/-- `bufAt` is undefined outside every buffer. -/
theorem bufAt_eq_none {a : Word} (h : bufAt a = none) : inSomeBuffer a.toNat = false := by
  simp only [bufAt, Option.map_eq_none_iff, List.find?_eq_none] at h
  simp only [inSomeBuffer, List.any_eq_false]
  simpa using h

/-! ### The environment -/

theorem takeInput_nil {s : State} (h : s.inputs = []) : takeInput s = none := by simp [takeInput, h]

theorem takeInput_cons {s : State} {i : Input} {rest : List Input} (h : s.inputs = i :: rest) :
    takeInput s = some (i, { s with inputs := rest }) := by simp [takeInput, h]

/-- What the reset input leaves. -/
theorem hardReset_eq (c : CfgReset) (s : State) :
    hardReset c s = { State.resetWith c with inputs := s.inputs, drawEpoch := s.drawEpoch + 1 } := rfl

end Sys2Proof.Machine
end

