-- ==== Sys2Proof/Laws/Operands.lean ====
section
/-! SUPPORT. Sizes of what the operand and family functions build. -/

namespace Sys2Proof.Machine

@[simp] theorem be16_length (v : Nat) : (be16 v).length = 2 := rfl

@[simp] theorem be32_length (v : Word) : (be32 v).length = 4 := rfl

@[simp] theorem leBytes_length (n v : Nat) : (leBytes n v).length = n := by simp [leBytes]

@[simp] theorem message_length (s : State) : s.message.length = s.msgLength := by simp [State.message]

@[simp] theorem storedChecksum_length (s : State) : s.storedChecksum.length = 32 := by simp [State.storedChecksum]

@[simp] theorem storedPacket_length (s : State) : s.storedPacket.length = s.regs.pktLen.toNat := by
  simp [State.storedPacket]

@[simp] theorem md5_length (m : List Byte) : (md5 m).length = 16 := by
  unfold md5; split; simp

@[simp] theorem hexlower_length (d : List Byte) : (hexlower d).length = 2 * d.length := by
  induction d with
  | nil => rfl
  | cons b d ih =>
    have : hexlower (b :: d) = [hexDigit (b.toNat / 16), hexDigit (b.toNat % 16)] ++ hexlower d := rfl
    rw [this, List.length_append, ih, List.length_cons, List.length_cons, List.length_cons, List.length_nil]
    omega

@[simp] theorem checksumText_length (m : List Byte) : (checksumText m).length = 32 := by simp [checksumText]

@[simp] theorem byteBits_length (b : Byte) : (byteBits b).length = 8 := by simp [byteBits]

theorem bits_cons (b : Byte) (p : List Byte) : bits (b :: p) = byteBits b ++ bits p := rfl

theorem bits_append (p p' : List Byte) : bits (p ++ p') = bits p ++ bits p' := by simp [bits]

@[simp] theorem tone_size (sr : Nat) (f : Q16) (n : Nat) : (tone sr f n).length = n := by simp [tone]

@[simp] theorem buildAll_size (src tx : Word) (r : Nat) (ck pl : List Byte) : (buildAll src tx r ck pl).length = r := by
  simp [buildAll]

/-- A packet of `build_all` is `frame` with its sequence number. -/
theorem mem_buildAll {src tx : Word} {n : Nat} {ck pl p : List Byte} (h : p ∈ buildAll src tx n ck pl) :
    ∃ r, r < n ∧ p = frame src tx (r + 1) ck pl := by
  simp only [buildAll, List.mem_map, List.mem_range] at h
  obtain ⟨r, hr, rfl⟩ := h
  exact ⟨r, hr, rfl⟩

end Sys2Proof.Machine
end

