-- ==== Sys2Proof/WellFormed.lean ====
section
/-! DEFINITION. Which instructions are lines of a host program as spec/30_encoding.md R82 writes them. The types of the
operands already bound every field, so the one check left is R82's "Reads have DATA = 0". The machine decodes and runs the
other reads too (R76: their DATA is ignored); no meaning depends on this predicate (log 17). -/

namespace Sys2Proof

/-- "Reads have DATA = 0" (spec/30_encoding.md R82): the check on one read transaction. -/
def readDataZero (data : Word) : Bool := data == 0

/-- The instruction is written as R82 and R83 write it. -/
def Instr.wellFormed : Instr → Bool
  | .digest => true
  | .parseAddr _ => true
  | .buildPacket => true
  | .genTone => true
  | .modulate => true
  | .send => true
  | .save => true
  | .rd32 _ data => readDataZero data
  | .wr32 _ _ => true
  | .rd8 _ data => readDataZero data
  | .wr8 _ _ => true

end Sys2Proof
end

