-- ==== Sys2Proof/Laws/PerInstr.lean ====
section
/-! SUPPORT. A family of laws proved instruction by instruction: every instruction's encoded form is a word of its row of
spec/opcode_table.json. -/

namespace Sys2Proof.Laws.OpcodeTableRow

/-- A row of spec/opcode_table.json for 32-bit command words: mask and match. -/
def cmdwRow : Instr → Option (Word × Word)
  | .digest => some (0xFFFFFFFF, 0x00000001)
  | .parseAddr _ => some (0xFFFFFEFF, 0x00000002)
  | .buildPacket => some (0xFFFFFFFF, 0x00000003)
  | .genTone => some (0xFFFFFFFF, 0x00000004)
  | .modulate => some (0xFFFFFFFF, 0x00000005)
  | .send => some (0xFFFFFFFF, 0x00000006)
  | .save => some (0xFFFFFFFF, 0x00000007)
  | .rd32 _ _ => none
  | .wr32 _ _ => none
  | .rd8 _ _ => none
  | .wr8 _ _ => none

/-- A row of spec/opcode_table.json for 66-bit transactions: the KIND bits 65:64. -/
def hbtRow : Instr → Option (BitVec 2)
  | .digest => none
  | .parseAddr _ => none
  | .buildPacket => none
  | .genTone => none
  | .modulate => none
  | .send => none
  | .save => none
  | .rd32 _ _ => some 0b00
  | .wr32 _ _ => some 0b01
  | .rd8 _ _ => some 0b10
  | .wr8 _ _ => some 0b11

/-- The encoded form of `i` carries the fixed bits of its row. -/
def Statement (i : Instr) : Prop :=
  match encode i with
  | .cmdw w => ∃ row, cmdwRow i = some row ∧ w &&& row.1 = row.2
  | .hbt t => ∃ kind, hbtRow i = some kind ∧ t.extractLsb' 64 2 = kind

theorem hbtOf_kind (kind : BitVec 2) (addr data : Word) : (hbtOf kind addr data).extractLsb' 64 2 = kind := by
  apply BitVec.eq_of_getLsbD_eq
  intro i hi
  have h66 : 64 + i < 66 := by omega
  have h32 : ¬(64 + i < 32) := by omega
  have ha : addr.getLsbD (64 + i - 32) = false := BitVec.getLsbD_of_ge _ _ (by omega)
  have hd : data.getLsbD (64 + i) = false := BitVec.getLsbD_of_ge _ _ (by omega)
  simp [hbtOf, hi, h66, h32, ha, hd]

theorem digest : Statement .digest := ⟨_, rfl, by decide⟩
theorem parseAddr (sel : AddrSel) : Statement (.parseAddr sel) := by
  cases sel
  · exact ⟨_, rfl, by decide⟩
  · exact ⟨_, rfl, by decide⟩
theorem buildPacket : Statement .buildPacket := ⟨_, rfl, by decide⟩
theorem genTone : Statement .genTone := ⟨_, rfl, by decide⟩
theorem modulate : Statement .modulate := ⟨_, rfl, by decide⟩
theorem send : Statement .send := ⟨_, rfl, by decide⟩
theorem save : Statement .save := ⟨_, rfl, by decide⟩
theorem rd32 (addr data : Word) : Statement (.rd32 addr data) := ⟨_, rfl, hbtOf_kind 0b00 addr data⟩
theorem wr32 (addr data : Word) : Statement (.wr32 addr data) := ⟨_, rfl, hbtOf_kind 0b01 addr data⟩
theorem rd8 (addr data : Word) : Statement (.rd8 addr data) := ⟨_, rfl, hbtOf_kind 0b10 addr data⟩
theorem wr8 (addr data : Word) : Statement (.wr8 addr data) := ⟨_, rfl, hbtOf_kind 0b11 addr data⟩

end Sys2Proof.Laws.OpcodeTableRow
end

