-- ==== Sys2Proof/Laws/Step.lean ====
section
/-! SUPPORT. What a step, a sink's answer and a command can do, said once, for later proofs to cite. -/

namespace Sys2Proof.Machine

/-- A step that answers next is one of four: waiting, a host transaction, a sink's answer, the reset input. -/
theorem step_next_cases {s t : State} (h : step s = .next t) :
    (s.inputs = [] ∧ t = s) ∨
    (∃ w rest, s.inputs = .bus w :: rest ∧ exec (decodeHbt w) { s with inputs := rest } = .next t) ∨
    (∃ r rest, s.inputs = .answer r :: rest ∧ sinkAnswer r { s with inputs := rest } = .next t) ∨
    (∃ rest, s.inputs = .reset :: rest ∧ t = hardReset Config.cfgReset { s with inputs := rest }) := by
  unfold step takeInput at h
  cases hi : s.inputs with
  | nil => left; simp [hi] at h; exact ⟨rfl, h.symm⟩
  | cons i rest =>
    right
    cases i with
    | bus w => left; simp [hi] at h; exact ⟨w, rest, rfl, h⟩
    | answer r => right; left; simp [hi] at h; exact ⟨r, rest, rfl, h⟩
    | reset => right; right; simp [hi] at h; exact ⟨rest, rfl, h.symm⟩

/-- A sink's answer that answers next had an event offered. -/
theorem sinkAnswer_next {r : Answer} {s t : State} (h : sinkAnswer r s = .next t) :
    ∃ e rest opened aborting,
      s.seqr = .run (e :: rest) opened aborting ∧ t = answered e rest opened aborting r s := by
  unfold sinkAnswer at h
  split at h
  · cases h
  · cases h
  · rename_i e rest opened aborting heq
    exact ⟨e, rest, opened, aborting, heq, by cases h; rfl⟩

theorem sinkAnswer_run {r : Answer} {s : State} {e : Event} {rest : List Event} {opened aborting : Bool}
    (h : s.seqr = .run (e :: rest) opened aborting) :
    sinkAnswer r s = .next (answered e rest opened aborting r s) := by
  simp [sinkAnswer, h]

/-- Every instruction of FSKTX answers next in every state. -/
theorem exec_next (i : Instr) (s : State) : ∃ t, exec i s = .next t := by
  cases i <;> exact ⟨_, rfl⟩

/-- A command's meaning is its effect. -/
theorem exec_command (c : Cmd) (s : State) : exec c.toInstr s = .next (runCommand c s) := by
  cases c <;> rfl

/-- What a command does: it ends with an error and nothing else, or it ends well with its registers and buffers written, or
it starts a script with CKSUM possibly written. -/
theorem runCommand_cases (c : Cmd) (s : State) :
    (∃ e, runCommand c s = finish e s) ∨
    (c = .digest ∧ runCommand c s = finish .ok (storeChecksum s)) ∨
    (∃ sel v, c = .parseAddr sel ∧ runCommand c s = finish .ok (setReg (addrReg sel) v s)) ∨
    (c = .buildPacket ∧ ¬s.lengthExceeded ∧ ¬s.seqExceeded ∧
      runCommand c s = finish .ok
        (setReg .pktLen (BitVec.ofNat 32 (Config.headerLen + s.msgLength)) (memWrite .pkt 0 s.framedPacket s))) ∨
    (c = .genTone ∧ runCommand c s = start s.toneScript s) ∨
    (c = .modulate ∧ runCommand c s = start s.modulateScript s) ∨
    (c = .send ∧ ¬s.lengthExceeded ∧ ¬s.redundancyExceeded ∧
      runCommand c s = start s.sendScript (storeChecksum s)) ∨
    (c = .save ∧ ¬s.lengthExceeded ∧ ¬s.redundancyExceeded ∧ s.regs.bitDur ≠ 0 ∧
      runCommand c s = start s.saveScript (storeChecksum s)) := by
  cases c with
  | digest =>
    simp only [runCommand, digest]
    split
    · exact .inl ⟨_, rfl⟩
    · exact .inr (.inl ⟨by trivial, rfl⟩)
  | parseAddr sel =>
    simp only [runCommand, parseAddr]
    split
    · exact .inl ⟨_, rfl⟩
    · split
      · exact .inl ⟨_, rfl⟩
      · exact .inr (.inr (.inl ⟨sel, _, rfl, rfl⟩))
  | buildPacket =>
    simp only [runCommand, buildPacket]
    split
    · exact .inl ⟨_, rfl⟩
    · split
      · exact .inl ⟨_, rfl⟩
      · exact .inr (.inr (.inr (.inl ⟨by trivial, ‹_›, ‹_›, rfl⟩)))
  | genTone => exact .inr (.inr (.inr (.inr (.inl ⟨by trivial, rfl⟩))))
  | modulate => exact .inr (.inr (.inr (.inr (.inr (.inl ⟨by trivial, rfl⟩)))))
  | send =>
    simp only [runCommand, send]
    split
    · exact .inl ⟨_, rfl⟩
    · split
      · exact .inl ⟨_, rfl⟩
      · exact .inr (.inr (.inr (.inr (.inr (.inr (.inl ⟨by trivial, ‹_›, ‹_›, rfl⟩))))))
  | save =>
    simp only [runCommand, save]
    split
    · exact .inl ⟨_, rfl⟩
    · split
      · exact .inl ⟨_, rfl⟩
      · split
        · exact .inl ⟨_, rfl⟩
        · exact .inr (.inr (.inr (.inr (.inr (.inr (.inr ⟨by trivial, ‹_›, ‹_›, ‹_›, rfl⟩))))))

/-- A host transaction: a read answers a value, a write is refused, discarded, accepted as a command, or stored. -/
theorem wr32_cases (a d : Word) (s : State) :
    wr32 a d s = refuseWrite s ∨ wr32 a d s = discardWrite s ∨
    (s.regs.status.busy = false ∧ regAt a = some .cmd ∧ wr32 a d s = accept d (noResponse s)) ∨
    (s.regs.status.busy = false ∧ regAt a = some .status ∧ wr32 a d s = clearStatus d (noResponse s)) ∨
    (∃ r, s.regs.status.busy = false ∧ regAt a = some r ∧ writableReg r = true ∧ r ≠ .cmd ∧ r ≠ .status ∧
      wr32 a d s = setReg r d (noResponse s)) := by
  unfold wr32
  cases hr : regAt a with
  | none => simp
  | some r =>
    by_cases hw : writableReg r = true
    · by_cases hb : s.regs.status.busy = true
      · simp [hw, hb]
      · right; right
        cases r <;> simp_all [writeReg]
    · simp [hw]

theorem wr8_cases (a d : Word) (s : State) :
    wr8 a d s = refuseWrite s ∨ wr8 a d s = discardWrite s ∨
    (∃ X o, s.regs.status.busy = false ∧ bufAt a = some (X, o) ∧ writableBuf X = true ∧
      wr8 a d s = memWrite X o [d.extractLsb' 0 8] (noResponse s)) := by
  unfold wr8
  cases hr : bufAt a with
  | none => simp
  | some p =>
    obtain ⟨X, o⟩ := p
    by_cases hw : writableBuf X = true
    · by_cases hb : s.regs.status.busy = true
      · simp [hw, hb]
      · right; right; exact ⟨X, o, by simpa using hb, rfl, hw, by simp [hw, hb]⟩
    · simp [hw]

/-- A read changes nothing but what it answers, and AERR when it is refused. -/
theorem rd32_cases (a : Word) (s : State) :
    (regAt a = none ∧ rd32 a s = refuseRead s) ∨ (∃ r, regAt a = some r ∧ rd32 a s = respond (s.regs.get r) s) := by
  unfold rd32
  cases regAt a <;> simp

theorem rd8_cases (a : Word) (s : State) :
    (bufAt a = none ∧ rd8 a s = refuseRead s) ∨
    (∃ X o, bufAt a = some (X, o) ∧ rd8 a s = respond ((s.readByte (X.base + o)).setWidth 32) s) := by
  unfold rd8
  cases h : bufAt a with
  | none => simp
  | some p => obtain ⟨X, o⟩ := p; exact .inr ⟨X, o, rfl, rfl⟩

/-- One poll of `waitidle`: it answers the STATUS word and changes nothing else. -/
theorem exec_poll (s : State) : exec (.rd32 Reg.status.addr 0) s = .next (respond s.regs.status.word s) := rfl

/-- The bit `waitidle` tests is BUSY. -/
@[simp] theorem pollAgain_word (st : Status) : pollAgain st.word = st.busy := by
  cases h : st.busy <;> simp [pollAgain, Status.word, flagWord, h]

/-- `waitidle` reads once more after a value with BUSY = 1, and ends at a value with BUSY = 0. -/
theorem waitidleReads_cons (v : Word) (vs : List Word) :
    waitidleReads (v :: vs) = if pollAgain v then waitidleReads vs else vs.isEmpty := rfl

/-- What `accept` does. -/
theorem accept_cases (w : Word) (s : State) :
    (∃ e, decodeCmdw w = .error e ∧ accept w s = finish .illegalCommand (beginCommand w s)) ∨
    (∃ c, decodeCmdw w = .ok c ∧ accept w s = runCommand c (beginCommand w s)) := by
  unfold accept
  cases h : decodeCmdw w with
  | error e => exact .inl ⟨e, rfl, rfl⟩
  | ok c => exact .inr ⟨c, rfl, rfl⟩

end Sys2Proof.Machine
end

