-- ==== Sys2Proof/Tests/Slice0.lean ====
section
/-! SUPPORT. The model's own tests. Expected values are the vectors of spec/95_test_vectors.md or the examples of the rule
named; each theorem is about one decoding, one function or one step. The last part shows, for every statement that has
hypotheses, a state and operands that meet them. -/

namespace Sys2Proof.Machine.Test

/-! ### Small states -/

/-- The test configuration of spec/95_test_vectors.md V-SEQ. -/
def cfg : CfgReset :=
  { txAddr := 0xC0A80001, redundancy := 1, sampleRate := 8000, bitDur := 0x1000, fHigh := 0x03E80000, pause := 0x8000 }

/-- Right after reset. -/
def idle : State := State.resetWith cfg

/-- `s` with its registers changed. -/
def withRegs (f : Regs → Regs) (s : State) : State := { s with regs := f s.regs }

/-- Reset, with MSG_LEN = n. -/
def msgLen (n : Word) : State := withRegs (fun g => { g with msgLen := n }) idle

/-- Reset, with the message "hi". -/
def hi : State := memWrite .msg 0 [0x68, 0x69] (msgLen 2)

/-- Reset, with the text `t` in SRC_TEXT or TX_TEXT. -/
def text (sel : AddrSel) (t : List Byte) : State :=
  memWrite (textBuf sel) 0 t
    (withRegs (fun g => { g with srcTextLen := BitVec.ofNat 32 t.length, txTextLen := BitVec.ofNat 32 t.length }) idle)

/-- A command runs: SEQR is Run(script, opened, aborting). -/
def running (script : List Event) (opened aborting : Bool) : State :=
  withRegs (fun g => { g with status := { g.status with busy := true, sinkOpen := opened } })
    { idle with seqr := .run script opened aborting }

/-- A command runs, with AOpen offered. -/
def busy : State := running [.aOpen, .aClose] false false

/-- `s` with one input presented. -/
def given (i : Input) (s : State) : State := { s with inputs := [i] }

/-- What `f` reads from the state an outcome goes on to. -/
def got {α : Type} (o : Host.Outcome State Fault Refusal) (f : State → α) : Option α :=
  match o with
  | .next s => some (f s)
  | .fault _ => none
  | .refused _ => none

/-- The STATUS word. -/
def status (s : State) : Word := s.regs.status.word

/-- The bytes "49f68a5c8493ec2c0bf489821c21fc3b" (L1-3). -/
def ckHi : List Byte :=
  [0x34, 0x39, 0x66, 0x36, 0x38, 0x61, 0x35, 0x63, 0x38, 0x34, 0x39, 0x33, 0x65, 0x63, 0x32, 0x63,
    0x30, 0x62, 0x66, 0x34, 0x38, 0x39, 0x38, 0x32, 0x31, 0x63, 0x32, 0x31, 0x66, 0x63, 0x33, 0x62]

/-! ### WellFormed refuses an ill-formed term of its one check (R82) -/

theorem test_wellFormed_refuses_rd32_data : (Instr.rd32 0x04 1).wellFormed = false := by decide
theorem test_wellFormed_refuses_rd8_data : (Instr.rd8 0x20000 0x80000000).wellFormed = false := by decide
theorem test_wellFormed_takes_the_rest :
    ([.digest, .parseAddr .src, .parseAddr .tx, .buildPacket, .genTone, .modulate, .send, .save, .rd32 4 0, .wr32 4 0x302,
      .rd8 0x20000 0, .wr8 0x10000 0x68] : List Instr).all Instr.wellFormed = true := by decide

/-! ### Words written out: CMDW from V-ENC, HBT (KIND_ADDR_DATA) from programs P1, P2, P4 -/

theorem test_decode_digest : decodeTableWord 32 0x00000001 = some .digest := by decide
theorem test_decode_parseAddr_src : decodeTableWord 32 0x00000002 = some (.parseAddr .src) := by decide
theorem test_decode_parseAddr_tx : decodeTableWord 32 0x00000102 = some (.parseAddr .tx) := by decide
theorem test_decode_buildPacket : decodeTableWord 32 0x00000003 = some .buildPacket := by decide
theorem test_decode_genTone : decodeTableWord 32 0x00000004 = some .genTone := by decide
theorem test_decode_modulate : decodeTableWord 32 0x00000005 = some .modulate := by decide
theorem test_decode_send : decodeTableWord 32 0x00000006 = some .send := by decide
theorem test_decode_save : decodeTableWord 32 0x00000007 = some .save := by decide
theorem test_decode_rd32 : decodeTableWord 72 0x00000004400000000 = some (.rd32 0x44 0) := by decide
theorem test_decode_wr32 : decodeTableWord 72 0x10000000C0A000005 = some (.wr32 0x0C 0x0A000005) := by decide
theorem test_decode_rd8 : decodeTableWord 72 0x2000400540000_0000 = some (.rd8 0x40054 0) := by decide
theorem test_decode_wr8 : decodeTableWord 72 0x30003001A00000031 = some (.wr8 0x3001A 0x31) := by decide
theorem test_decode_refuses_each_illegal_word :
    [0x00000000, 0x00000008, 0x000000FF, 0x00000101, 0x00000105, 0x00000201, 0x80000006].map (decodeTableWord 32) =
      List.replicate 7 none := by decide
theorem test_decode_names_the_reason :
    decodeCmdw 0x00000000 = .error .illegalOpcode ∧ decodeCmdw 0x00000101 = .error .selNotZero ∧
    decodeCmdw 0x80000006 = .error .reservedNotZero ∧ (wireOfNumber 32 (2 ^ 32)) = .error .tooManyBits := by decide
theorem test_encode_words :
    [Instr.digest, .parseAddr .src, .parseAddr .tx, .buildPacket, .genTone, .modulate, .send, .save].map encode =
      [.cmdw 1, .cmdw 2, .cmdw 0x102, .cmdw 3, .cmdw 4, .cmdw 5, .cmdw 6, .cmdw 7] ∧
    encode (.wr32 0x18 0x12C) = .hbt 0x1000000180000012C ∧ encode (.rd8 0x1FFFF 0) = .hbt 0x20001FFFF00000000 := by decide

/-! ### Host programs (R83; the lines of P1) -/

theorem test_expand_wrbytes :
    (Pseudo.wrbytes .msg 0 [0x68, 0x69]).expand.map encode = [.hbt 0x30001000000000068, .hbt 0x30001000100000069] := by
  decide
theorem test_expand_commands :
    (Pseudo.command (.parseAddr .tx)).expand.map encode = [.hbt 0x10000000000000102] ∧
    Pseudo.clrstatus.expand.map encode = [.hbt 0x10000000400000302] ∧
    (Pseudo.waitidle 1).expand.map encode = [.hbt 0x00000000400000000, .hbt 0x00000000400000000] := by decide

/-- P5: `waitidle` around GEN_TONE reads STATUS 0x1 and then 0x2; no value, and a last value with BUSY = 1, end no loop, and a value
with BUSY = 0 is the last one. -/
theorem test_waitidle_reads :
    [[0x1, 0x2], [0x2], [0x501, 0x501, 0x142], [], [0x1], [0x2, 0x2]].map waitidleReads =
      [true, true, true, false, false, false] := by decide

/-! ### Functions -/

set_option maxRecDepth 20000 in
theorem test_md5_of_hi : checksumText [0x68, 0x69] = ckHi := by decide

set_option maxRecDepth 20000 in
/-- V-MD5: 56 times "a", two blocks: 3b0c8ac703f828b04c6c197006d17218. -/
theorem test_md5_of_two_blocks :
    md5 (List.replicate 56 0x61) =
      [0x3b, 0x0c, 0x8a, 0xc7, 0x03, 0xf8, 0x28, 0xb0, 0x4c, 0x6c, 0x19, 0x70, 0x06, 0xd1, 0x72, 0x18] := by decide

/-- V-ADDR: "10.0.0.5", "255.255.255.255", "010.0.0.1". -/
theorem test_parseDotted_accepts :
    parseDotted [0x31, 0x30, 0x2E, 0x30, 0x2E, 0x30, 0x2E, 0x35] = some (10, 0, 0, 5) ∧
    parseDotted [0x32, 0x35, 0x35, 0x2E, 0x32, 0x35, 0x35, 0x2E, 0x32, 0x35, 0x35, 0x2E, 0x32, 0x35, 0x35] =
      some (255, 255, 255, 255) ∧
    parseDotted [0x30, 0x31, 0x30, 0x2E, 0x30, 0x2E, 0x30, 0x2E, 0x31] = some (10, 0, 0, 1) := by decide

/-- V-ADDR: "256.0.0.1", "1.2.3", "1.2.3.4.5", "0001.0.0.0", "", " 1.2.3.4", "1.2.3.4.", "1..3.4", "1.2.3.a". -/
theorem test_parseDotted_refuses :
    [[0x32, 0x35, 0x36, 0x2E, 0x30, 0x2E, 0x30, 0x2E, 0x31], [0x31, 0x2E, 0x32, 0x2E, 0x33],
      [0x31, 0x2E, 0x32, 0x2E, 0x33, 0x2E, 0x34, 0x2E, 0x35],
      [0x30, 0x30, 0x30, 0x31, 0x2E, 0x30, 0x2E, 0x30, 0x2E, 0x30], [],
      [0x20, 0x31, 0x2E, 0x32, 0x2E, 0x33, 0x2E, 0x34], [0x31, 0x2E, 0x32, 0x2E, 0x33, 0x2E, 0x34, 0x2E],
      [0x31, 0x2E, 0x2E, 0x33, 0x2E, 0x34], [0x31, 0x2E, 0x32, 0x2E, 0x33, 0x2E, 0x61]].map parseDotted =
      List.replicate 9 none := by decide

/-- V-TONE: sample rate, duration, multiplier, count. -/
theorem test_nSamples :
    [(8000, 0x1000, 0x30000), (5, 0x8000, 0x10000), (7, 0x8000, 0x10000), (3, 0x8000, 0x10000), (44100, 0xCCD, 0x30000),
      (8000, 0x1999, 0x30000), (48000, 0x666, 0x30000), (0, 0x1000, 0x30000), (1, 1, 0x8000)].map
      (fun ((sr, d, m) : Word × Word × Word) =>
        (withRegs (fun g => { g with sampleRate := sr, durMult := m }) idle).nSamples d) =
      [1500, 2, 4, 2, 6615, 2400, 3599, 0, 0] := by decide

/-- V-SEQ-3: PAUSE, BIT_DUR, P_PAUSE. -/
theorem test_pPause :
    [(0x8000, 0x1000), (0x8000, 0x4CCD), (0x8000, 0x8000), (1, 0x10000), (0x10000, 0x4000), (0x18000, 0x10000),
      (0, 0x1000)].map
      (fun ((p, b) : Word × Word) => (withRegs (fun g => { g with pause := p, bitDur := b }) idle).pPause) =
      [8, 2, 1, 1, 4, 2, 0] := by decide

/-- V-MOD: the bits of "hi". -/
theorem test_bits_of_hi :
    bits [0x68, 0x69] =
      [false, true, true, false, true, false, false, false, false, true, true, false, true, false, false, true] := by
  decide

set_option maxRecDepth 4000 in
/-- L1-2: packet 1 of the "hi" scenario. -/
theorem test_frame_of_hi :
    frame 0x0A000005 0xC0A80001 1 ckHi [0x68, 0x69] =
      List.replicate 32 0x55 ++ [0x0a, 0x00, 0x00, 0x05, 0xc0, 0xa8, 0x00, 0x01, 0x01, 0x00, 0x02] ++
        List.replicate 8 0x00 ++ ckHi ++ [0x68, 0x69] := by decide

/-- V-PKT-7: byte 40 of the packets of `build_all` with R = 3. -/
theorem test_buildAll_numbers : (buildAll 0 0 3 ckHi []).map (fun p => p.getD 40 0) = [0x01, 0x02, 0x03] := by decide

/-! ### Host transactions (V-HBT) -/

theorem test_rd32_durMult : got (exec (.rd32 0x24 0) idle) (fun t => (t.hostData, status t)) = some (some 0x30000, 0) := by
  decide
theorem test_rd32_misaligned : got (exec (.rd32 0x06 0) idle) (fun t => (t.hostData, status t)) = some (some 0, 0x200) := by
  decide
theorem test_wr32_pktLen_refused :
    got (exec (.wr32 0x44 5) idle) (fun t => (t.regs.pktLen, status t)) = some (0, 0x200) := by decide
/-- P2 line 39: a discarded write sets WVIOL. -/
theorem test_wr32_while_busy :
    got (exec (.wr32 0x18 5) busy) (fun t => (t.regs.redundancy, status t)) = some (1, 0x101) := by decide
theorem test_rd8_past_msg : got (exec (.rd8 0x1FFFF 0) idle) (fun t => (t.hostData, status t)) = some (some 0, 0x200) := by
  decide
/-- P1 line 16. -/
theorem test_rd8_pkt :
    got (exec (.rd8 0x40054 0) (memWrite .pkt 84 [0x69] idle)) (fun t => (t.hostData, status t)) =
      some (some 0x69, 0) := by decide
theorem test_wr8_low_byte :
    got (exec (.wr8 0x10000 0x1234) idle) (fun t => (t.mem, status t)) = some ([(0x10000, 0x34)], 0) := by decide
theorem test_wr8_cksum_while_busy :
    got (exec (.wr8 0x20000 0) busy) (fun t => (t.mem, status t)) = some ([], 0x301) := by decide

/-! ### STATUS (V-HBT's W1C case, V-ENC's illegal word) -/

theorem test_w1c :
    got (exec (.wr32 0x04 0x2) (withRegs (fun g => { g with status := ⟨false, true, 4, true, true, false⟩ }) idle)) status =
      some 0x300 := by decide
/-- P4 line 14: CMD keeps the illegal word. -/
theorem test_illegal_word :
    got (exec (.wr32 0x00 0x105) idle) (fun t => (t.regs.cmd, status t, t.regs.progress)) = some (0x105, 0x52, 0) := by
  decide

/-! ### Commands -/

set_option maxRecDepth 20000 in
theorem test_digest_hi : got (exec .digest hi) (fun t => (status t, t.storedChecksum)) = some (0x2, ckHi) := by decide
theorem test_digest_too_long : got (exec .digest (msgLen 70000)) (fun t => (status t, t.mem)) = some (0x12, []) := by decide
/-- V-ADDR: "10.0.0.5" into SRC_ADDR. -/
theorem test_parseAddr_src :
    got (exec (.parseAddr .src) (text .src [0x31, 0x30, 0x2E, 0x30, 0x2E, 0x30, 0x2E, 0x35]))
      (fun t => (status t, t.regs.srcAddr, t.regs.txAddr)) = some (0x2, 0x0A000005, 0xC0A80001) := by decide
/-- V-ADDR: "1.2.3" leaves TX_ADDR. -/
theorem test_parseAddr_tx_format :
    got (exec (.parseAddr .tx) (text .tx [0x31, 0x2E, 0x32, 0x2E, 0x33])) (fun t => (status t, t.regs.txAddr)) =
      some (0x22, 0xC0A80001) := by decide
set_option maxRecDepth 20000 in
/-- P1 lines 12 to 16. -/
theorem test_buildPacket_hi :
    got (exec .buildPacket (memWrite .cksum 0 ckHi (withRegs (fun g => { g with seq := 1 }) hi)))
      (fun t => (status t, t.regs.pktLen, [40, 42, 51, 84].map fun o => t.readByte (0x40000 + o))) =
      some (0x2, 85, [0x01, 0x02, 0x34, 0x69]) := by decide
/-- V-PKT-5. -/
theorem test_buildPacket_seq :
    got (exec .buildPacket (withRegs (fun g => { g with seq := 256 }) idle)) (fun t => (status t, t.regs.pktLen)) =
      some (0x32, 0) := by decide
/-- P5: the tone's buffer length and rate. -/
theorem test_genTone :
    got (exec .genTone (withRegs (fun g => { g with sampleRate := 5, toneDur := 0x8000, durMult := 0x10000 }) idle))
      (fun t => (status t, t.seqr.script.map fun e => (Event.played e).map List.length)) =
      some (0x1, [none, some 2, none]) := by decide
/-- V-RST: MODULATE right after reset. -/
theorem test_modulate_after_reset :
    got (exec .modulate idle) (fun t => (status t, t.seqr)) = some (0x1, .run [.aOpen, .aClose] false false) := by decide
set_option maxRecDepth 20000 in
/-- V-SEQ-4: R = 0. -/
theorem test_send_nothing :
    got (exec .send (withRegs (fun g => { g with redundancy := 0 }) hi)) (fun t => (t.seqr, t.readByte 0x2001F)) =
      some (.run [.aOpen, .aClose] false false, 0x62) := by decide
/-- V-ERR: MSG_LEN = 2, REDUNDANCY = 300. -/
theorem test_send_redundancy :
    got (exec .send (withRegs (fun g => { g with redundancy := 300 }) (msgLen 2))) (fun t => (status t, t.mem)) =
      some (0x32, []) := by decide
set_option maxRecDepth 20000 in
/-- V-SEQ-4: R = 0. -/
theorem test_save_nothing :
    got (exec .save (withRegs (fun g => { g with redundancy := 0, fileId := 7 }) hi)) (fun t => t.seqr) =
      some (.run [.fWrite 7 [] 8000] false false) := by decide
/-- V-ERR: BIT_DUR = 0. -/
theorem test_save_bitDur :
    got (exec .save (withRegs (fun g => { g with redundancy := 2, bitDur := 0 }) (msgLen 2))) (fun t => (status t, t.mem)) =
      some (0x62, []) := by decide

/-! ### The handshake (V-SEQ-5, 6, 8, 9, 10) -/

theorem test_fail_on_aOpen :
    got (step (given (.answer .fail) busy)) (fun t => (status t, t.audioTrace, t.seqr)) =
      some (0x42, [(.aOpen, .fail)], .idle) := by decide
theorem test_ok_on_aOpen :
    got (step (given (.answer .ok) busy)) (fun t => (status t, t.regs.progress, t.seqr)) =
      some (0x401, 1, .run [.aClose] true false) := by decide
theorem test_fail_on_aPlay :
    got (step (given (.answer .fail) (running [.aPlay [] 8000, .aClose] true false)))
      (fun t => (status t, t.regs.progress, t.seqr)) = some (0x401, 0, .run [.aClose] true true) := by decide
theorem test_fail_on_release :
    got (step (given (.answer .fail) (running [.aClose] true true))) (fun t => (status t, t.regs.progress)) =
      some (0x42, 0) := by decide
theorem test_ok_on_last :
    got (step (given (.answer .ok) (running [.aClose] true false))) (fun t => (status t, t.regs.progress)) =
      some (0x2, 1) := by decide
theorem test_fail_on_fWrite :
    got (step (given (.answer .fail) (running [.fWrite 7 [] 8000] false false)))
      (fun t => (status t, t.fileTrace, t.audioTrace)) = some (0x42, [(.fWrite 7 [] 8000, .fail)], []) := by decide

/-! ### Reset and a step of a placed word -/

theorem test_reset_registers :
    [0x00, 0x04, 0x08, 0x0C, 0x14, 0x24, 0x2C, 0x34, 0x38, 0x3C, 0x40, 0x44, 0x48, 0x4C].map
      (fun (a : Word) => (regAt a).map idle.regs.get) =
      [some 0, some 0, some 0, some 0, some 0, some 0x30000] ++ List.replicate 8 (some 0) := by decide
theorem test_reset_input :
    got (step (given .reset busy)) (fun t => (status t, t.seqr, t.regs.durMult)) = some (0, .idle, 0x30000) := by decide
theorem test_placed_command_runs : got (step (State.reset.withFetchWord 32 0x00000004)) status = some 0x1 := by decide
theorem test_placed_transaction_runs :
    got (step (State.reset.withFetchWord 72 0x30001000000001234)) (fun t => t.mem) = some [(0x10000, 0x34)] := by decide

/-! ### Every statement's hypotheses are met -/

/-- The invariant of a test state, by its parts. -/
theorem inv_busy : Inv busy := by
  refine ⟨by decide, ?_, by decide, by decide, by decide, by decide, fun _ => by decide, fun h => absurd rfl h, by decide,
    by decide⟩
  intro c hc; cases hc

theorem inv_idle : Inv idle := by
  refine ⟨by decide, ?_, by decide, by decide, by decide, by decide, fun h => ?_, fun h => absurd rfl h, by decide,
    by decide⟩
  · intro c hc; cases hc
  · cases h

theorem witness_EveryDecodedWordIsAnEncoding :
    decode (.cmdw 0x102) = .ok (.parseAddr .tx) ∧ decode (.hbt 0x3FFFFFFFFFFFFFFFF) = .ok (.wr8 0xFFFFFFFF 0xFFFFFFFF) := by
  decide

theorem witness_TransactionWordsReadTheirFields :
    ∀ kind ∈ [0, 1, 2, 3], ∃ (t : HbtWord) (a d : Word), t.toNat = kind * 2 ^ 64 + a.toNat * 2 ^ 32 + d.toNat := by
  intro kind hk
  simp only [List.mem_cons, List.not_mem_nil, or_false] at hk
  rcases hk with rfl | rfl | rfl | rfl
  · exact ⟨0x0FFFFFFFFFFFFFFFF, 0xFFFFFFFF, 0xFFFFFFFF, by decide⟩
  · exact ⟨0x1FFFFFFFFFFFFFFFF, 0xFFFFFFFF, 0xFFFFFFFF, by decide⟩
  · exact ⟨0x2FFFFFFFFFFFFFFFF, 0xFFFFFFFF, 0xFFFFFFFF, by decide⟩
  · exact ⟨0x3FFFFFFFFFFFFFFFF, 0xFFFFFFFF, 0xFFFFFFFF, by decide⟩

theorem witness_StepRunsTheDecodedTransaction : (given (.bus 0x30001000000001234) idle).inputs = [.bus 0x30001000000001234] :=
  rfl

theorem witness_PlacedWordRunsItsInstruction :
    decodeTableWord 72 0x30001000000001234 = some (.wr8 0x10000 0x1234) ∧ decodeTableWord 32 0x7 = some .save ∧
    idle.regs.status.busy = false := by decide

theorem witness_HostTransactionIsAlwaysEnabled : (given (.bus 0x0) busy).inputs = [.bus 0x0] := rfl

theorem witness_AcceptedWordRunsItsCommand :
    idle.regs.status.busy = false ∧ decode (.cmdw 0x1) = .ok .digest ∧ decode (.cmdw 0x7) = .ok .save := by decide

theorem witness_IllegalWordRaisesIllegalCommand :
    idle.regs.status.busy = false ∧ (0x00 : Word).toNat % 256 = 0x00 ∧ 0x08 ≤ (0x08 : Word).toNat % 256 ∧
    (0x201 : Word).toNat / 512 ≠ 0 ∧ ((0x101 : Word).getLsbD 8 = true ∧ (0x101 : Word).toNat % 256 ≠ 0x02) := by decide

theorem witness_AcceptanceEndsOrStartsAScript :
    idle.regs.status.busy = false ∧ (∃ t, exec (.wr32 0x00 0x0) idle = .next t ∧ t.regs.status.busy = false) ∧
    ∃ t, exec (.wr32 0x00 0x4) idle = .next t ∧ t.regs.status.busy = true :=
  ⟨by decide, ⟨_, rfl, by decide⟩, ⟨_, rfl, by decide⟩⟩

theorem witness_WaitsWithoutInputAndFaultsOnStrayAnswer :
    idle.inputs = [] ∧ (given (.answer .ok) idle).inputs = [.answer .ok] ∧ (given (.answer .ok) idle).seqr.script = [] := by
  decide

theorem witness_Rd32ReturnsTheRegister :
    ¬((0x06 : Word).toNat % 4 = 0 ∧ (0x06 : Word).toNat ≤ 0x4C) ∧ ¬((0x50 : Word).toNat % 4 = 0 ∧ (0x50 : Word).toNat ≤ 0x4C) := by
  decide

/-- The boundaries of the writable offsets: 0x40 and 0x48 are, 0x44, 0x4C and 0x4A are not. -/
theorem witness_Wr32StoresTheWord :
    ([0x44, 0x4C, 0x4A, 0x50] : List Word).all
      (fun a => !decide (a.toNat % 4 = 0 ∧ a.toNat < 0x4C ∧ a.toNat ≠ 0x44)) = true ∧
    ([0x00, 0x40, 0x48] : List Word).all (fun a => decide (a.toNat % 4 = 0 ∧ a.toNat < 0x4C ∧ a.toNat ≠ 0x44)) = true ∧
    busy.regs.status.busy = true ∧ idle.regs.status.busy = false := by decide

theorem witness_StatusWriteClearsTheMarkedBits : idle.regs.status.busy = false := by decide

theorem witness_Rd8ReturnsTheByte :
    ([0x10000, 0x1FFFE, 0x20000, 0x2001F, 0x30000, 0x3000F, 0x30010, 0x3001F, 0x40000, 0x50051] : List Word).all
      (fun a => bufAt a != none) = true ∧
    ([0x0, 0xFFFF, 0x1FFFF, 0x20020, 0x2FFFF, 0x30020, 0x3FFFF, 0x50052] : List Word).all (fun a => bufAt a == none) =
      true := by decide

theorem witness_Wr8StoresTheLowByte :
    Memory.wf idle.mem = true ∧ idle.regs.status.busy = false ∧ Memory.wf busy.mem = true ∧ busy.regs.status.busy = true ∧
    ([0x10000, 0x1FFFE, 0x30000, 0x3000F, 0x30010, 0x3001F] : List Word).all
      (fun a => decide ((0x00010000 ≤ a.toNat ∧ a.toNat ≤ 0x0001FFFE) ∨ (0x00030000 ≤ a.toNat ∧ a.toNat ≤ 0x0003001F))) =
      true ∧
    ([0x0FFFF, 0x1FFFF, 0x20000, 0x2FFFF, 0x30020, 0x40000] : List Word).all
      (fun a => !decide ((0x00010000 ≤ a.toNat ∧ a.toNat ≤ 0x0001FFFE) ∨ (0x00030000 ≤ a.toNat ∧ a.toNat ≤ 0x0003001F))) =
      true := by decide

/-- Two bytes at the start of MSG, the last byte of TX_TEXT, and a running script between two polls. -/
theorem witness_WrbytesStoresAndWaitidlePolls :
    Memory.wf idle.mem = true ∧ idle.regs.status.busy = false ∧ writableBuf .msg = true ∧ writableBuf .txText = true ∧
    15 + ([0x31] : List Byte).length ≤ Buf.txText.size ∧
    ((Pseudo.wrbytes .msg 0 [0x68, 0x69]).expand.map hostInput ++ [] =
      [.bus 0x30001000000000068, .bus 0x30001000100000069]) ∧
    (Pseudo.waitidle 0).expand.map hostInput = [.bus 0x00000000400000000] ∧
    ∃ s : State, s.seqr = .run [.aOpen, .aClose] false false ∧ [Event.aOpen, .aClose] ≠ [] ∧ s.regs.status.busy = true ∧
      s.inputs = .bus 0x00000000400000000 ::
        (List.replicate 2 (.answer .ok) ++ .bus 0x00000000400000000 :: ([] : List Input)) :=
  ⟨by decide, by decide, by decide, by decide, by decide, by decide, by decide,
    { busy with inputs := [.bus 0x00000000400000000, .answer .ok, .answer .ok, .bus 0x00000000400000000] }, by decide⟩

theorem witness_BusyWritesAreDiscarded : busy.regs.status.busy = true := by decide

theorem witness_ReadOnlyRegistersStayUnderHostAccess :
    (decodeHbt 0x10000001800000005 = .wr32 0x18 5 ∧ ∃ t, exec (.wr32 0x18 5) idle = .next t) ∧
    decodeHbt 0x10000000000000001 = .wr32 0x00 1 ∧ busy.regs.status.busy = true ∧ ∃ t, exec (.wr32 0x00 1) busy = .next t :=
  ⟨⟨by decide, _, rfl⟩, by decide, by decide, _, rfl⟩

theorem witness_OnlyAnswersProduceSinkEvents :
    (∃ t, exec .genTone idle = .next t) ∧
    (∃ t, step (given (.answer .ok) busy) = .next t ∧ (∀ rest, (given (.answer .ok) busy).inputs ≠ .reset :: rest) ∧
      t.audioTrace ≠ busy.audioTrace) ∧
    ∃ t, step { busy with inputs := [.reset], audioTrace := [(.aOpen, .fail)] } = .next t ∧ t.audioTrace ≠ [(.aOpen, .fail)] :=
  ⟨⟨_, rfl⟩, ⟨_, rfl, fun _ h => (by cases h), by decide⟩, ⟨_, rfl, by decide⟩⟩

theorem witness_IgnoredDataBitsChangeNothing : (0x1234 : Word).toNat % 256 = (0x34 : Word).toNat % 256 := by decide

theorem witness_DigestStoresTheChecksum :
    65535 < (msgLen 65536).regs.msgLen.toNat ∧ Memory.wf (msgLen 65535).mem = true ∧
    (msgLen 65535).regs.msgLen.toNat ≤ 65535 := by decide

theorem witness_HexDigitsDecodeToTheDigest :
    15 < (List.replicate 16 (0xFF : Byte)).length ∧ hexlower [0x0F] = hexlower [0x0F] := by decide

set_option maxRecDepth 20000 in
theorem witness_ChecksumDependsOnTheMessageOnly :
    Memory.wf hi.mem = true ∧ hi.regs.status.err = 0 ∧
    (∃ t, exec .digest hi = .next t ∧ t.regs.status.err = 0) ∧ (∃ t, exec .send hi = .next t ∧ t.regs.status.err = 0) ∧
    ∃ t, exec .save hi = .next t ∧ t.regs.status.err = 0 :=
  ⟨by decide, by decide, ⟨_, rfl, by decide⟩, ⟨_, rfl, by decide⟩, ⟨_, rfl, by decide⟩⟩

/-- "255.255.255.255" and "0.0.0.0" parse, "" does not, and 17 is one more than the text buffer holds. -/
theorem witness_ParseAddrSetsTheAddress :
    (∀ sel ∈ [AddrSel.src, .tx],
      parseDotted ((text sel ([0x32, 0x35, 0x35, 0x2E, 0x32, 0x35, 0x35, 0x2E] ++
        [0x32, 0x35, 0x35, 0x2E, 0x32, 0x35, 0x35])).addrText sel) = some (255, 255, 255, 255) ∧
      parseDotted ((text sel [0x30, 0x2E, 0x30, 0x2E, 0x30, 0x2E, 0x30]).addrText sel) = some (0, 0, 0, 0) ∧
      parseDotted (idle.addrText sel) = none ∧ idle.textLength sel ≤ 16 ∧
      16 < (text sel (List.replicate 17 0x30)).textLength sel) := by decide

theorem witness_PacketFieldsLieAtTheirOffsets :
    ∃ (seq : Nat) (ck pl : List Byte), seq = 255 ∧ seq ≤ 255 ∧ ck.length = 32 ∧ pl.length = 65535 ∧ pl.length ≤ 65535 :=
  ⟨255, ckHi, List.replicate 65535 0, rfl, Nat.le_refl _, rfl, List.length_replicate, by rw [List.length_replicate]⟩

theorem witness_BuildPacketStoresTheFrame :
    65535 < (msgLen 65536).regs.msgLen.toNat ∧
    255 < (withRegs (fun g => { g with seq := 256 }) (msgLen 65535)).regs.seq.toNat ∧
    Memory.wf (msgLen 65535).mem = true ∧ (msgLen 65535).regs.msgLen.toNat ≤ 65535 ∧
    (withRegs (fun g => { g with seq := 255 }) (msgLen 65535)).regs.seq.toNat ≤ 255 := by decide

theorem witness_BuildAllNumbersItsPackets :
    ∃ (count : Nat) (ck pl : List Byte), count = 255 ∧ count ≤ 255 ∧ ck.length = 32 ∧ pl.length ≤ 65535 ∧ 254 < count :=
  ⟨255, ckHi, [], rfl, by decide, rfl, by decide, by decide⟩

/-- Five samples a second, multiplier 1. -/
def rate5 : State := withRegs (fun g => { g with sampleRate := 5, durMult := 0x10000 }) idle

/-- The product of the clauses at a duration `d`, in numerals. -/
theorem rate5_product (d : Word) :
    (rate5.regs.sampleRate.toNat : ℚ) * Q16.toRat ⟨d⟩ * Q16.toRat ⟨rate5.regs.durMult⟩ =
      (5 : ℕ) * ((d.toNat : ℚ) / 65536) * (((65536 : ℕ) : ℚ) / 65536) := rfl

/-- Above a natural by less than 1/2 (5/4), by more (15/8), and by 1/2 (5/2, V-TONE's tie). -/
theorem witness_SampleCountIsTheRoundedProduct :
    (∃ (d : Word) (x : ℚ) (n : ℕ),
      x = (rate5.regs.sampleRate.toNat : ℚ) * Q16.toRat ⟨d⟩ * Q16.toRat ⟨rate5.regs.durMult⟩ ∧ (n : ℚ) ≤ x ∧ x < (n : ℚ) + 1 ∧
        x - n < 1 / 2) ∧
    (∃ (d : Word) (x : ℚ) (n : ℕ),
      x = (rate5.regs.sampleRate.toNat : ℚ) * Q16.toRat ⟨d⟩ * Q16.toRat ⟨rate5.regs.durMult⟩ ∧ (n : ℚ) ≤ x ∧ x < (n : ℚ) + 1 ∧
        1 / 2 < x - n) ∧
    ∃ (d : Word) (x : ℚ) (n : ℕ),
      x = (rate5.regs.sampleRate.toNat : ℚ) * Q16.toRat ⟨d⟩ * Q16.toRat ⟨rate5.regs.durMult⟩ ∧ (n : ℚ) ≤ x ∧ x < (n : ℚ) + 1 ∧
        x - n = 1 / 2 := by
  have h1 : (0x4000 : Word).toNat = 16384 := by decide
  have h2 : (0x6000 : Word).toNat = 24576 := by decide
  have h3 : (0x8000 : Word).toNat = 32768 := by decide
  refine ⟨⟨0x4000, 5 / 4, 1, ?_⟩, ⟨0x6000, 15 / 8, 1, ?_⟩, ⟨0x8000, 5 / 2, 2, ?_⟩⟩
  · rw [rate5_product, h1]; norm_num
  · rw [rate5_product, h2]; norm_num
  · rw [rate5_product, h3]; norm_num

theorem witness_ToneHasItsSamplesAndZeroIsSilent : 1499 < 1500 := by decide

theorem witness_ZeroOperandsGiveEmptyBuffers :
    (withRegs (fun g => { g with sampleRate := 0 }) idle).regs.sampleRate = 0 ∧
    (withRegs (fun g => { g with durMult := 0 }) idle).regs.durMult = 0 ∧ idle.regs.toneDur = 0 := by decide

theorem witness_BitsAreMostSignificantFirst : 15 < 8 * ([0x68, 0x69] : List Byte).length := by decide

theorem witness_ModulationFollowsTheBits : 679 < 8 * (List.replicate 85 (0x55 : Byte)).length := by decide

theorem witness_ZeroPacketIsSilentAtZeroLowTone :
    idle.regs.fLow = 0 ∧ (∀ b ∈ ([0x00, 0x00] : List Byte), b = 0x00) ∧ idle.modulatePacket [0x00, 0x00] ≠ [] := by
  refine ⟨by decide, by decide, fun h => ?_⟩
  have := congrArg List.length h
  simp [State.modulatePacket, bits] at this

theorem witness_FramedPacketsBeginLowHigh : 255 < 256 := by decide

theorem witness_SendStartsItsScript :
    65535 < (msgLen 65536).regs.msgLen.toNat ∧
    255 < (withRegs (fun g => { g with redundancy := 256 }) (msgLen 65535)).regs.redundancy.toNat ∧
    Memory.wf (msgLen 65535).mem = true ∧ (msgLen 65535).regs.msgLen.toNat ≤ 65535 ∧
    (withRegs (fun g => { g with redundancy := 255 }) (msgLen 65535)).regs.redundancy.toNat ≤ 255 := by decide

theorem witness_SaveStartsItsScript :
    65535 < (msgLen 65536).regs.msgLen.toNat ∧
    255 < (withRegs (fun g => { g with redundancy := 256 }) (msgLen 65535)).regs.redundancy.toNat ∧
    (withRegs (fun g => { g with redundancy := 255, bitDur := 0 }) (msgLen 65535)).regs.bitDur = 0 ∧
    Memory.wf (msgLen 65535).mem = true ∧ (msgLen 65535).regs.msgLen.toNat ≤ 65535 ∧
    (withRegs (fun g => { g with redundancy := 255, bitDur := 1 }) (msgLen 65535)).regs.redundancy.toNat ≤ 255 ∧
    (withRegs (fun g => { g with redundancy := 255, bitDur := 1 }) (msgLen 65535)).regs.bitDur ≠ 0 := by decide

theorem witness_PauseCountIsTheExactCeiling : idle.regs.bitDur ≠ 0 := by decide

theorem witness_AssembledSequenceStartsWithTheFirstTone :
    0 < (withRegs (fun g => { g with redundancy := 1 }) idle).regs.redundancy.toNat ∧
    idle.nSamples idle.regs.bitDur = 1500 := by decide

theorem witness_OkAnswerAdvancesTheScript :
    (given (.answer .ok) busy).inputs = [.answer .ok] ∧
    (given (.answer .ok) busy).seqr = .run (.aOpen :: [.aClose]) false false ∧
    (given (.answer .ok) (running [.aClose] true true)).seqr = .run (.aClose :: []) true true := by decide

theorem witness_FailAnswerReleasesAndReports :
    (given (.answer .fail) (running [.aPause ⟨0⟩, .aClose] true false)).inputs = [.answer .fail] ∧
    (given (.answer .fail) (running [.aPause ⟨0⟩, .aClose] true false)).seqr = .run (.aPause ⟨0⟩ :: [.aClose]) true false ∧
    (given (.answer .fail) (running [.aClose] true true)).seqr = .run (.aClose :: []) true true := by decide

theorem witness_ScriptEndsWhenAllAnswersAreOk :
    ∃ s : State, s.seqr = .run [.aOpen, .aClose] false false ∧ [Event.aOpen, .aClose] ≠ [] ∧
      s.inputs = List.replicate 2 (.answer .ok) ++ [.bus 0] ∧ s.seqr.legal = true ∧ s.regs.status.sinkOpen = false :=
  ⟨{ busy with inputs := [.answer .ok, .answer .ok, .bus 0] }, by decide⟩

/-- Both endings: a failure of AOpen, of FWrite and of AClose, and a failure of APlay or APause with the releasing AClose answered. -/
theorem witness_FirstFailureEndsTheScript :
    (∃ s : State, s.seqr = .run ([] ++ .aOpen :: [.aClose]) false false ∧ s.seqr.legal = true ∧
      s.regs.status.sinkOpen = false ∧ s.inputs = List.replicate 0 (.answer .ok) ++ .answer .fail :: []) ∧
    (∃ s : State, s.seqr = .run ([] ++ .fWrite 7 [] 8000 :: []) false false ∧ s.seqr.legal = true ∧
      s.regs.status.sinkOpen = false ∧ s.inputs = List.replicate 0 (.answer .ok) ++ .answer .fail :: []) ∧
    (∃ s : State, s.seqr = .run ([.aOpen] ++ .aClose :: []) false false ∧ s.seqr.legal = true ∧
      s.regs.status.sinkOpen = false ∧ s.inputs = List.replicate 1 (.answer .ok) ++ .answer .fail :: []) ∧
    (∃ s : State, s.seqr = .run ([.aOpen] ++ .aPlay [] 8000 :: [.aClose]) false false ∧ s.seqr.legal = true ∧
      s.regs.status.sinkOpen = false ∧ s.inputs = List.replicate 1 (.answer .ok) ++ .answer .fail :: [.answer .fail]) ∧
    ∃ s : State, s.seqr = .run ([] ++ .aPause ⟨0⟩ :: [.aClose]) true false ∧ s.seqr.legal = true ∧
      s.regs.status.sinkOpen = true ∧ s.inputs = List.replicate 0 (.answer .ok) ++ .answer .fail :: [.answer .ok] :=
  ⟨⟨given (.answer .fail) busy, by decide⟩,
    ⟨given (.answer .fail) (running [.fWrite 7 [] 8000] false false), by decide⟩,
    ⟨{ busy with inputs := [.answer .ok, .answer .fail] }, by decide⟩,
    ⟨{ running [.aOpen, .aPlay [] 8000, .aClose] false false with inputs := [.answer .ok, .answer .fail, .answer .fail] },
      by decide⟩,
    ⟨{ running [.aPause ⟨0⟩, .aClose] true false with inputs := [.answer .fail, .answer .ok] }, by decide⟩⟩

/-- A state that meets the invariant, and what its step under each kind of input answers. -/
theorem witness_EveryStepKeepsTheInvariant :
    Inv busy ∧ Inv idle ∧ AudioReleased busy ∧ AudioReleased idle ∧ (∃ t, step busy = .next t) ∧
    (∃ t, step (given (.bus 0x10000000000000004) idle) = .next t) ∧ (∃ t, step (given (.answer .ok) busy) = .next t) ∧
    ∃ t, step (given .reset busy) = .next t :=
  ⟨inv_busy, inv_idle, rfl, rfl, ⟨_, rfl⟩, ⟨_, rfl⟩, ⟨_, rfl⟩, ⟨_, rfl⟩⟩

theorem witness_RunningScriptIsFrozen :
    Inv busy ∧ busy.seqr.running = true ∧ (∀ rest, (given (.bus 0x10000001800000005) busy).inputs ≠ .reset :: rest) ∧
    ∃ t, step (given (.bus 0x10000001800000005) busy) = .next t := by
  refine ⟨inv_busy, by decide, fun rest h => ?_, _, rfl⟩
  cases h

/-- An accepted command that ends with each of the codes 1, 2, 3, 5 and 6. -/
theorem witness_ValidationErrorsChangeOnlyStatus :
    idle.regs.status.busy = false ∧
    [(msgLen 65536, (0x6 : Word)), (idle, 0x2), (withRegs (fun g => { g with seq := 256 }) idle, 0x3), (idle, 0x0),
      (withRegs (fun g => { g with bitDur := 0 }) idle, 0x7)].map
      (fun p => got (exec (.wr32 0x00 p.2) p.1) fun t => t.regs.status.err) =
      [some 1, some 2, some 3, some 5, some 6] := by decide

/-- One byte beyond the message "hi" differs, under DIGEST and BUILD_PACKET, which read the message, and under GEN_TONE. -/
theorem witness_BytesBeyondTheMessageAreIgnored :
    Memory.wf hi.mem = true ∧ Memory.wf (Memory.put hi.mem 0x10002 0xFF) = true ∧
    (∀ a, ¬(0x00010000 + hi.regs.msgLen.toNat ≤ a ∧ a ≤ 0x0001FFFE) →
      ({ hi with mem := Memory.put hi.mem 0x10002 0xFF } : State).readByte a = hi.readByte a) ∧
    ∀ c ∈ [Cmd.digest, .buildPacket, .genTone], (∃ t, exec c.toInstr hi = .next t) ∧
      ∃ t, exec c.toInstr { hi with mem := Memory.put hi.mem 0x10002 0xFF } = .next t := by
  have hwf : Memory.wf hi.mem = true := by decide
  refine ⟨hwf, Memory_put_wf _ _ _ hwf, fun a h => ?_, fun c _ => ⟨exec_next _ _, exec_next _ _⟩⟩
  have h0 : hi.regs.msgLen.toNat = 2 := by decide
  have ha : a ≠ 0x10002 := by omega
  simp [State.readByte, Memory_get?_put _ _ _ _ hwf, ha]

theorem witness_ResetInputRestoresReset : (given .reset busy).inputs = .reset :: [] := rfl

end Sys2Proof.Machine.Test
end

section
/-! The step by the kind of its next input (spec/00_scope.md R18, R19). -/

namespace Sys2Proof.Machine

/-- The converse of the host-transaction case of `step_next_cases`, for whatever the transaction's instruction answers. -/
theorem step_bus {s : State} {t : HbtWord} {rest : List Input} (h : s.inputs = .bus t :: rest) :
    step s = exec (decodeHbt t) { s with inputs := rest } := by
  simp only [step, takeInput_cons h]

/-- Settles O6: taking the transaction off the inputs leaves its decoded instruction to run on the rest. -/
theorem stepRunsTheDecodedTransaction : Obligations.StepRunsTheDecodedTransaction :=
  fun _ _ _ h => step_bus h

end Sys2Proof.Machine
end

section
/-! The two encoded forms: an accepted command word is the encoding of its command (spec/30_encoding.md R71 to R74), and a
transaction is read back by its fields (R76, R77). -/

namespace Sys2Proof

/-! ### Fields of a built word -/

theorem kindField_hbtOf (kind : BitVec 2) (addr data : Word) : kindField (hbtOf kind addr data) = kind :=
  Laws.OpcodeTableRow.hbtOf_kind kind addr data

theorem addrField_hbtOf (kind : BitVec 2) (addr data : Word) : addrField (hbtOf kind addr data) = addr := by
  apply BitVec.eq_of_getLsbD_eq
  intro i hi
  simp [addrField, hbtOf, hi, show 32 + i < 66 by omega, show 32 + i < 64 by omega]

theorem dataField_hbtOf (kind : BitVec 2) (addr data : Word) : dataField (hbtOf kind addr data) = data := by
  apply BitVec.eq_of_getLsbD_eq
  intro i hi
  simp [dataField, hbtOf, hi, show i < 66 by omega, show i < 64 by omega]

theorem decodeHbt_wr32 (addr data : Word) : decodeHbt (hbtOf 0b01 addr data) = .wr32 addr data := by
  simp [decodeHbt, kindField_hbtOf, addrField_hbtOf, dataField_hbtOf]

/-! ### A command word is its three fields -/

theorem cmdwOf_fields (w : Word) : cmdwOf (resField w) (selField w) (opcodeField w) = w := by
  apply BitVec.eq_of_getLsbD_eq
  intro i hi
  rcases Nat.lt_trichotomy i 8 with h | rfl | h
  · simp [cmdwOf, resField, selField, opcodeField, hi, h, show i < 9 by omega]
  · simp [cmdwOf, resField, selField, opcodeField]
  · simp [cmdwOf, resField, selField, opcodeField, hi, show ¬i < 9 by omega, show ¬i < 8 by omega,
      show i - 9 < 23 by omega, show 9 + (i - 9) = i by omega, BitVec.getLsbD_ofBool, show ¬ i - 8 = 0 by omega]

theorem withoutSel_eq_ok {sel : Bool} {c c' : Cmd} (h : withoutSel sel c = .ok c') : sel = false ∧ c = c' := by
  cases sel with
  | false => exact ⟨rfl, Except.ok.inj h⟩
  | true => cases h

/-- A word with RES = 0 and the opcode of a command that takes no SEL decodes to that command only as its encoding. -/
theorem eq_encodeCmdw_of_withoutSel {w : Word} {n : Nat} {c c' : Cmd} (hres : resField w = 0)
    (hop : (opcodeField w).toNat = n) (henc : encodeCmdw c = cmdwOf 0 false (BitVec.ofNat 8 n))
    (h : withoutSel (selField w) c = .ok c') : w = encodeCmdw c' := by
  obtain ⟨hsel, rfl⟩ := withoutSel_eq_ok h
  rw [henc, ← cmdwOf_fields w, hres, hsel, ← hop, BitVec.ofNat_toNat, BitVec.setWidth_eq]

/-- The word that decodes to a command is the command's encoding: its RES is 0, and its opcode and SEL are the command's. -/
theorem eq_encodeCmdw_of_decodeCmdw {w : Word} {c : Cmd} (h : decodeCmdw w = .ok c) : w = encodeCmdw c := by
  unfold decodeCmdw at h
  split at h
  · cases h
  have hres : resField w = 0 := not_not.mp ‹¬resField w ≠ 0›
  split at h
  next hop => exact eq_encodeCmdw_of_withoutSel hres hop rfl h
  next hop =>
    have hw := cmdwOf_fields w
    rw [hres, BitVec.eq_of_toNat_eq (y := 0x02#8) hop] at hw
    obtain rfl := Except.ok.inj h
    cases hsel : selField w <;> rw [← hw, hsel] <;> rfl
  next hop => exact eq_encodeCmdw_of_withoutSel hres hop rfl h
  next hop => exact eq_encodeCmdw_of_withoutSel hres hop rfl h
  next hop => exact eq_encodeCmdw_of_withoutSel hres hop rfl h
  next hop => exact eq_encodeCmdw_of_withoutSel hres hop rfl h
  next hop => exact eq_encodeCmdw_of_withoutSel hres hop rfl h
  next => cases h

/-- A decoded command word stands for a command. -/
theorem decode_cmdw_eq_ok {w : Word} {i : Instr} (h : decode (.cmdw w) = .ok i) :
    ∃ c : Cmd, decodeCmdw w = .ok c ∧ c.toInstr = i := by
  cases hc : decodeCmdw w with
  | error e => simp [decode, hc, Except.map] at h
  | ok c => exact ⟨c, rfl, by simpa [decode, hc, Except.map] using h⟩

/-- A table row's number that is read as an instruction is the number of an encoded form that decodes to it. -/
theorem decodeTableWord_eq_some {nbits w : Nat} {i : Instr} (h : decodeTableWord nbits w = some i) :
    ∃ x, wireOfNumber nbits w = .ok x ∧ decode x = .ok i := by
  cases hx : wireOfNumber nbits w with
  | error e => simp [decodeTableWord, hx, Except.bind, Except.toOption] at h
  | ok x =>
    cases hi : decode x with
    | error e => simp [decodeTableWord, hx, hi, Except.bind, Except.toOption] at h
    | ok j => exact ⟨x, rfl, by simpa [decodeTableWord, hx, hi, Except.bind, Except.toOption] using h⟩

theorem decodeTableWord_cmdw {nbits w : Nat} {i : Instr} (hn : nbits ≤ 32) (h : decodeTableWord nbits w = some i) :
    decode (.cmdw (BitVec.ofNat 32 w)) = .ok i := by
  obtain ⟨x, hx, hi⟩ := decodeTableWord_eq_some h
  rw [wireOfNumber, if_pos hn] at hx
  split at hx
  · cases hx; exact hi
  · cases hx

theorem decodeTableWord_hbt {nbits w : Nat} {i : Instr} (hn : 32 < nbits) (h : decodeTableWord nbits w = some i) :
    decodeHbt (BitVec.ofNat 66 w) = i := by
  obtain ⟨x, hx, hi⟩ := decodeTableWord_eq_some h
  rw [wireOfNumber, if_neg (by omega)] at hx
  split at hx
  · cases hx; exact Except.ok.inj hi
  · cases hx

end Sys2Proof
end

section
/-! The acceptance of a command word (spec/40_host_access.md R96, spec/10_state.md R24, R26). -/

namespace Sys2Proof.Machine

/-- An event an acquired sink is given before its AClose (spec/46_sequencer.md R170). -/
def Event.isPlayOrPause : Event → Bool
  | .aOpen => false
  | .aPlay _ _ => true
  | .aPause _ => true
  | .aClose => false
  | .fWrite _ _ _ => false

/-! ### The scripts of the four commands that start one -/

/-- APlay and APause events followed by one AClose are what is left of an audio script. -/
theorem playsThenClose_append_aClose {es : List Event} (h : ∀ e ∈ es, e.isPlayOrPause = true) :
    playsThenClose (es ++ [.aClose]) = true := by
  induction es with
  | nil => rfl
  | cons e es ih =>
    obtain ⟨he, hes⟩ := List.forall_mem_cons.mp h
    cases e with
    | aPlay buf sr => exact ih hes
    | aPause d => exact ih hes
    | aOpen => cases he
    | aClose => cases he
    | fWrite id samples sr => cases he

theorem freshScript_audio {es : List Event} (h : ∀ e ∈ es, e.isPlayOrPause = true) :
    freshScript ([.aOpen] ++ es ++ [.aClose]) = true := playsThenClose_append_aClose h

theorem isPlayOrPause_of_mem_playPacket {s : State} {p : List Byte} {e : Event} (h : e ∈ s.playPacket p) :
    e.isPlayOrPause = true := by
  obtain ⟨t, -, rfl⟩ := List.mem_map.mp h
  rfl

theorem isPlayOrPause_of_mem_sendPacket {s : State} {p : List Byte} {e : Event} (h : e ∈ s.sendPacket p) :
    e.isPlayOrPause = true := by
  rcases List.mem_append.mp h with h | h
  · exact isPlayOrPause_of_mem_playPacket h
  · rw [List.mem_singleton.mp h]; rfl

theorem toneScript_fresh (s : State) : freshScript s.toneScript = true := rfl

theorem modulateScript_fresh (s : State) : freshScript s.modulateScript = true :=
  freshScript_audio fun _ h => isPlayOrPause_of_mem_playPacket h

theorem sendScript_fresh (s : State) : freshScript s.sendScript = true := by
  refine freshScript_audio fun e h => ?_
  obtain ⟨p, -, hp⟩ := List.mem_flatMap.mp h
  exact isPlayOrPause_of_mem_sendPacket hp

theorem saveScript_fresh (s : State) : freshScript s.saveScript = true := rfl

theorem ne_nil_of_freshScript {es : List Event} (h : freshScript es = true) : es ≠ [] := by
  rintro rfl; cases h

/-! ### Acceptance -/

/-- A command ends in its own step, or it is one of four and starts a script that nothing has answered. -/
theorem runCommand_ends_or_starts (c : Cmd) (s : State) :
    (∃ e t, runCommand c s = finish e t) ∨
    ((c = .genTone ∨ c = .modulate ∨ c = .send ∨ c = .save) ∧
      ∃ es t, runCommand c s = start es t ∧ freshScript es = true ∧ t.regs = s.regs) := by
  rcases runCommand_cases c s with ⟨e, h⟩ | ⟨-, h⟩ | ⟨sel, v, -, h⟩ | ⟨-, -, -, h⟩ | ⟨hc, h⟩ | ⟨hc, h⟩ |
    ⟨hc, -, -, h⟩ | ⟨hc, -, -, -, h⟩
  · exact .inl ⟨_, _, h⟩
  · exact .inl ⟨_, _, h⟩
  · exact .inl ⟨_, _, h⟩
  · exact .inl ⟨_, _, h⟩
  · exact .inr ⟨.inl hc, _, _, h, toneScript_fresh s, rfl⟩
  · exact .inr ⟨.inr (.inl hc), _, _, h, modulateScript_fresh s, rfl⟩
  · exact .inr ⟨.inr (.inr (.inl hc)), _, _, h, sendScript_fresh s, storeChecksum_regs s⟩
  · exact .inr ⟨.inr (.inr (.inr hc)), _, _, h, saveScript_fresh s, storeChecksum_regs s⟩

/-- A WR32 to CMD while BUSY = 0 is the acceptance of its word. -/
theorem exec_wr32_cmd {s : State} (w : Word) (hb : s.regs.status.busy = false) :
    exec (.wr32 0x00 w) s = .next (accept w (noResponse s)) := by
  have hreg : regAt 0x00 = some .cmd := rfl
  have hwr : wr32 0x00 w s = accept w (noResponse s) := by
    unfold wr32
    rw [hreg]
    simp [writableReg, hb, writeReg]
  exact congrArg Host.Outcome.next hwr

theorem accept_of_decodeCmdw {w : Word} {c : Cmd} (h : decodeCmdw w = .ok c) (s : State) :
    accept w s = runCommand c (beginCommand w s) := by
  simp only [accept, h]

/-- Settles O7: the WR32 is the acceptance of its word, which begins the command and runs it. -/
theorem acceptedWordRunsItsCommand : Obligations.AcceptedWordRunsItsCommand := by
  intro s w i hb hi
  obtain ⟨c, hc, rfl⟩ := decode_cmdw_eq_ok hi
  rw [exec_wr32_cmd w hb, accept_of_decodeCmdw hc, exec_command]
  rfl

/-- Settles O9: the word is illegal and ends at once, or its command ends in its own step, or it is the encoding of one of
the four commands that start a script. -/
theorem acceptanceEndsOrStartsAScript : Obligations.AcceptanceEndsOrStartsAScript := by
  intro s t w hb ht
  rw [exec_wr32_cmd w hb] at ht
  obtain rfl := Host.Outcome.next.inj ht
  rcases accept_cases w (noResponse s) with ⟨_, -, h⟩ | ⟨c, hc, h⟩
  · rw [h]
    exact .inl ⟨rfl, rfl, rfl⟩
  rcases runCommand_ends_or_starts c (beginCommand w (noResponse s)) with ⟨e, u, hu⟩ | ⟨hcmd, es, u, hu, hes, hregs⟩
  · rw [h, hu]
    exact .inl ⟨rfl, rfl, rfl⟩
  · have hw : w = 0x04 ∨ w = 0x05 ∨ w = 0x06 ∨ w = 0x07 := by
      have henc := eq_encodeCmdw_of_decodeCmdw hc
      rcases hcmd with rfl | rfl | rfl | rfl
      · exact .inl henc
      · exact .inr (.inl henc)
      · exact .inr (.inr (.inl henc))
      · exact .inr (.inr (.inr henc))
    rw [h, hu]
    refine .inr ⟨rfl, ?_, ?_, hw, es, rfl, ne_nil_of_freshScript hes⟩
    · simp [hregs]
    · simp [hregs]

/-- Settles O10: the placed transaction is the next input, so the step runs what it decodes to; a placed command word is
the WR32 of it to CMD, whose acceptance is O7. -/
theorem placedWordRunsItsInstruction : Obligations.PlacedWordRunsItsInstruction := by
  intro s nbits w i hi
  constructor
  · intro hn
    have hin : (s.withFetchWord nbits w).inputs = .bus (BitVec.ofNat 66 w) :: s.inputs := by
      simp [State.withFetchWord, show ¬nbits ≤ 32 by omega]
    rw [step_bus hin, decodeTableWord_hbt hn hi]
    rfl
  · intro hn hb
    have hin : (s.withFetchWord nbits w).inputs = .bus (hbtOf 0b01 Reg.cmd.addr (BitVec.ofNat 32 w)) :: s.inputs := by
      simp [State.withFetchWord, hn]
    rw [step_bus hin, decodeHbt_wr32]
    exact acceptedWordRunsItsCommand s (BitVec.ofNat 32 w) i hb (decodeTableWord_cmdw hn hi)

end Sys2Proof.Machine
end

section
/-! The lengths of packets and scripts (spec/43_framer.md R131, spec/46_sequencer.md R179). -/

namespace Sys2Proof.Machine

@[simp] theorem bits_length (p : List Byte) : (bits p).length = 8 * p.length := by
  induction p with
  | nil => rfl
  | cons b p ih => rw [bits_cons, List.length_append, byteBits_length, ih, List.length_cons]; omega

theorem frame_length (src tx : Word) (seq : Nat) {ck : List Byte} (pl : List Byte) (hck : ck.length = 32) :
    (frame src tx seq ck pl).length = 83 + pl.length := by
  simp only [frame, List.length_append, List.length_replicate, be32_length, be16_length, List.length_singleton, hck]

theorem framedPacket_length (s : State) : s.framedPacket.length = 83 + s.msgLength := by
  rw [State.framedPacket, frame_length _ _ _ _ (storedChecksum_length s), message_length]

theorem length_of_mem_packets {s : State} {p : List Byte} (h : p ∈ s.packets) : p.length = 83 + s.msgLength := by
  obtain ⟨r, -, rfl⟩ := mem_buildAll h
  rw [frame_length _ _ _ _ (checksumText_length _), message_length]

theorem playPacket_length (s : State) (p : List Byte) : (s.playPacket p).length = 8 * p.length := by
  simp [State.playPacket, State.modulatePacket]

theorem sendPacket_length (s : State) (p : List Byte) : (s.sendPacket p).length = 8 * p.length + 1 := by
  simp [State.sendPacket, playPacket_length]

theorem modulateScript_length (s : State) : s.modulateScript.length = 2 + 8 * s.regs.pktLen.toNat := by
  simp only [State.modulateScript, List.length_append, List.length_singleton, playPacket_length, storedPacket_length]
  omega

/-- R179: the packets have one length, so SEND offers the same number of events for each. -/
theorem sendScript_length (s : State) :
    s.sendScript.length = 2 + s.redundancyCount * (8 * (83 + s.msgLength) + 1) := by
  have heach : s.packets.map (fun p => (s.sendPacket p).length) =
      s.packets.map fun _ => 8 * (83 + s.msgLength) + 1 :=
    List.map_congr_left fun p hp => by rw [sendPacket_length, length_of_mem_packets hp]
  have hcount : s.packets.length = s.redundancyCount := buildAll_size _ _ _ _ _
  simp only [State.sendScript, List.length_append, List.length_singleton, List.length_flatMap, heach, List.map_const',
    List.sum_replicate, hcount, smul_eq_mul]
  omega

end Sys2Proof.Machine
end

section
/-! What each operation on the state keeps of the invariant: one rule an operation (spec/10_state.md R25 to R48). -/

namespace Sys2Proof.Machine

/-! ### Operations outside a command -/

/-- The invariant does not speak of the inputs, what the bus returned, the traces, the draws, the flags WVIOL and AERR, or
the registers besides PKT_LEN and PROGRESS. -/
theorem Inv.of_eq {s t : State} (h : Inv s) (hmem : t.mem = s.mem) (hseqr : t.seqr = s.seqr)
    (hstatus : t.regs.status = { s.regs.status with wviol := t.regs.status.wviol, aerr := t.regs.status.aerr })
    (hpkt : t.regs.pktLen = s.regs.pktLen) (hprog : t.regs.progress = s.regs.progress) : Inv t := by
  have hbusy : t.regs.status.busy = s.regs.status.busy := by rw [hstatus]
  have hdone : t.regs.status.done = s.regs.status.done := by rw [hstatus]
  have herr : t.regs.status.err = s.regs.status.err := by rw [hstatus]
  have hsink : t.regs.status.sinkOpen = s.regs.status.sinkOpen := by rw [hstatus]
  constructor
  case memCanonical => rw [hmem]; exact h.memCanonical
  case memMapped => rw [hmem]; exact h.memMapped
  case busyRuns => rw [hbusy, hseqr]; exact h.busyRuns
  case sinkOpenIsOpened => rw [hsink, hseqr]; exact h.sinkOpenIsOpened
  case scriptLegal => rw [hseqr]; exact h.scriptLegal
  case errProduced => rw [herr]; exact h.errProduced
  case runningNotDone => rw [hseqr, hdone, herr]; exact h.runningNotDone
  case errIsDone => rw [herr, hdone]; exact h.errIsDone
  case pktLenBound => rw [hpkt]; exact h.pktLenBound
  case progressBound => rw [hprog, hseqr]; exact h.progressBound

theorem noResponse_keeps_inv {s : State} (h : Inv s) : Inv (noResponse s) := h.of_eq rfl rfl rfl rfl rfl

theorem respond_keeps_inv {s : State} (h : Inv s) (v : Word) : Inv (respond v s) := h.of_eq rfl rfl rfl rfl rfl

theorem refuseRead_keeps_inv {s : State} (h : Inv s) : Inv (refuseRead s) := h.of_eq rfl rfl rfl rfl rfl

theorem refuseWrite_keeps_inv {s : State} (h : Inv s) : Inv (refuseWrite s) := h.of_eq rfl rfl rfl rfl rfl

theorem discardWrite_keeps_inv {s : State} (h : Inv s) : Inv (discardWrite s) := h.of_eq rfl rfl rfl rfl rfl

theorem recordAnswer_keeps_inv {s : State} (h : Inv s) (e : Event) (r : Answer) : Inv (recordAnswer e r s) :=
  h.of_eq (by simp) (by simp) (by simp) (by simp) (by simp)

theorem setReg_keeps_inv {s : State} (h : Inv s) {r : Reg} (v : Word) (hpkt : r ≠ .pktLen) (hprog : r ≠ .progress) :
    Inv (setReg r v s) :=
  h.of_eq rfl rfl (by simp) (by simp [hpkt]) (by simp [hprog])

theorem setPktLen_keeps_inv {s : State} (h : Inv s) {v : Word} (hv : v.toNat ≤ Config.pktCap) :
    Inv (setReg .pktLen v s) :=
  { h with pktLenBound := hv }

/-- A store of bytes that fit a buffer lists addresses of that buffer only. -/
theorem memWrite_keeps_inv {s : State} (h : Inv s) {X : Buf} {o : Nat} {v : List Byte} (hfit : o + v.length ≤ X.size) :
    Inv (memWrite X o v s) := by
  have hmapped : ∀ c ∈ (memWrite X o v s).mem, inSomeBuffer c.1 = true := by
    intro c hc
    rcases Memory_mem_putList _ _ _ _ hc with hin | hold
    · exact inSomeBuffer_of_holds X _ ((Buf_holds_iff _ _).mpr (by omega))
    · exact h.memMapped c hold
  exact { h with memCanonical := Memory_putList_wf _ _ _ h.memCanonical, memMapped := hmapped }

theorem storeChecksum_keeps_inv {s : State} (h : Inv s) : Inv (storeChecksum s) := by
  rw [storeChecksum_eq]
  exact memWrite_keeps_inv h (by rw [checksumText_length]; exact Nat.le_refl 32)

/-- Clearing DONE clears ERR with it, and a running script has neither. -/
theorem clearStatus_keeps_inv {s : State} (h : Inv s) (d : Word) : Inv (clearStatus d s) := by
  cases hd : d.getLsbD 1 with
  | false =>
    refine h.of_eq rfl rfl ?_ rfl rfl
    simp only [clearStatus_regs, Status.w1c, hd]
    simp
  | true =>
    have hdone : (clearStatus d s).regs.status.done = false := by simp [hd]
    have herr : (clearStatus d s).regs.status.err = 0 := by simp [hd]
    exact { h with
      errProduced := by rw [herr]; decide
      runningNotDone := fun _ => ⟨hdone, herr⟩
      errIsDone := fun hne => absurd herr hne }

theorem resetWith_meets_inv (c : CfgReset) : Inv (State.resetWith c) where
  memCanonical := rfl
  memMapped := fun _ hc => by cases hc
  busyRuns := rfl
  sinkOpenIsOpened := rfl
  scriptLegal := rfl
  errProduced := Nat.zero_le _
  runningNotDone := fun h => by cases h
  errIsDone := fun h => absurd rfl h
  pktLenBound := Nat.zero_le _
  progressBound := Nat.zero_le _

theorem hardReset_meets_inv (c : CfgReset) (s : State) : Inv (hardReset c s) :=
  (resetWith_meets_inv c).of_eq rfl rfl rfl rfl rfl

/-! ### The end and the start of a command -/

theorem ErrCode_code_le_six (e : ErrCode) : e.code.toNat ≤ 6 := by cases e <;> decide

/-- With BUSY = 0 nothing runs. -/
theorem Inv.seqr_idle {s : State} (h : Inv s) (hb : s.regs.status.busy = false) : s.seqr = .idle := by
  have hrun := h.busyRuns
  cases hq : s.seqr with
  | idle => rfl
  | run es opened aborting => rw [hb, hq] at hrun; cases hrun

theorem Inv.sinkOpen_of_idle {s : State} (h : Inv s) (hq : s.seqr = .idle) : s.regs.status.sinkOpen = false := by
  rw [h.sinkOpenIsOpened, hq]; rfl

theorem Inv.progress_le {s : State} (h : Inv s) : s.regs.progress.toNat ≤ maxProgress :=
  (Nat.le_add_right _ _).trans h.progressBound

/-- `finish` of a state `t` whose sink is released and whose memory and PKT_LEN are those of a state that meets the
invariant; `t` itself need not meet it, since SINK_OPEN goes to 0 before SEQR goes to Idle. -/
theorem finish_meets_inv {s t : State} (h : Inv s) (e : ErrCode) (hmem : t.mem = s.mem)
    (hpkt : t.regs.pktLen = s.regs.pktLen) (hprog : t.regs.progress.toNat ≤ maxProgress)
    (hsink : t.regs.status.sinkOpen = false) : Inv (finish e t) where
  memCanonical := by rw [finish_mem, hmem]; exact h.memCanonical
  memMapped := by rw [finish_mem, hmem]; exact h.memMapped
  busyRuns := rfl
  sinkOpenIsOpened := hsink
  scriptLegal := rfl
  errProduced := ErrCode_code_le_six e
  runningNotDone := fun hr => by cases hr
  errIsDone := fun _ => rfl
  pktLenBound := by rw [finish_regs, hpkt]; exact h.pktLenBound
  progressBound := hprog

theorem finish_idle_keeps_inv {s : State} (h : Inv s) (hq : s.seqr = .idle) (e : ErrCode) : Inv (finish e s) :=
  finish_meets_inv h e rfl rfl h.progress_le (h.sinkOpen_of_idle hq)

/-- A state in which `accept` has begun a command: the invariant, SEQR still Idle, DONE, ERR and PROGRESS cleared
(spec/40_host_access.md R96). -/
structure Begun (s : State) : Prop where
  inv : Inv s
  seqrIdle : s.seqr = .idle
  notDone : s.regs.status.done = false
  noErr : s.regs.status.err = 0
  noProgress : s.regs.progress = 0

theorem beginCommand_begun {s : State} (h : Inv s) (hq : s.seqr = .idle) (w : Word) : Begun (beginCommand w s) where
  inv :=
    { h with
      errProduced := Nat.zero_le _
      runningNotDone := fun _ => ⟨rfl, rfl⟩
      errIsDone := fun hne => absurd rfl hne
      progressBound := by rw [beginCommand_seqr, hq]; exact Nat.zero_le _ }
  seqrIdle := hq
  notDone := rfl
  noErr := rfl
  noProgress := rfl

theorem storeChecksum_begun {s : State} (h : Begun s) : Begun (storeChecksum s) where
  inv := storeChecksum_keeps_inv h.inv
  seqrIdle := by rw [storeChecksum_seqr]; exact h.seqrIdle
  notDone := by rw [storeChecksum_regs]; exact h.notDone
  noErr := by rw [storeChecksum_regs]; exact h.noErr
  noProgress := by rw [storeChecksum_regs]; exact h.noProgress

theorem start_meets_inv {s : State} (h : Begun s) {es : List Event} (hfresh : freshScript es = true)
    (hlen : es.length ≤ maxProgress) : Inv (start es s) where
  memCanonical := h.inv.memCanonical
  memMapped := h.inv.memMapped
  busyRuns := rfl
  sinkOpenIsOpened := h.inv.sinkOpen_of_idle h.seqrIdle
  scriptLegal := hfresh
  errProduced := h.inv.errProduced
  runningNotDone := fun _ => ⟨h.notDone, h.noErr⟩
  errIsDone := h.inv.errIsDone
  pktLenBound := h.inv.pktLenBound
  progressBound := by
    have hzero : (start es s).regs.progress.toNat = 0 := congrArg BitVec.toNat h.noProgress
    rw [hzero, Nat.zero_add]
    exact hlen

/-! ### Commands -/

/-- R47's bound is the length of the longest SEND script: R = 255 and L = 65535. -/
theorem sendScript_length_le {s : State} (hl : ¬s.lengthExceeded) (hr : ¬s.redundancyExceeded) :
    s.sendScript.length ≤ maxProgress := by
  have hL : s.msgLength ≤ 65535 := not_lt.mp hl
  have hR : s.redundancyCount ≤ 255 := not_lt.mp hr
  calc s.sendScript.length
      = 2 + s.redundancyCount * (8 * (83 + s.msgLength) + 1) := sendScript_length s
    _ ≤ 2 + 255 * (8 * (83 + 65535) + 1) := by gcongr
    _ = maxProgress := rfl

theorem modulateScript_length_le {s : State} (h : Inv s) : s.modulateScript.length ≤ maxProgress := by
  have hpkt : s.regs.pktLen.toNat ≤ 65618 := h.pktLenBound
  rw [modulateScript_length, maxProgress]
  omega

/-- Storing the framed packet fills PKT to at most its size, and PKT_LEN holds the packet's length. -/
theorem storeFrame_keeps_inv {s : State} (h : Inv s) (hl : ¬s.lengthExceeded) :
    Inv (setReg .pktLen (BitVec.ofNat 32 (Config.headerLen + s.msgLength)) (memWrite .pkt 0 s.framedPacket s)) := by
  have hL : s.msgLength ≤ 65535 := not_lt.mp hl
  have hfit : 0 + s.framedPacket.length ≤ Buf.pkt.size := by
    rw [framedPacket_length, Buf.size, Config.pktCap]; omega
  have hlen : (BitVec.ofNat 32 (Config.headerLen + s.msgLength)).toNat ≤ Config.pktCap := by
    rw [BitVec.toNat_ofNat, Config.headerLen, Config.pktCap]; omega
  exact setPktLen_keeps_inv (memWrite_keeps_inv h hfit) hlen

theorem addrReg_ne_pktLen (sel : AddrSel) : addrReg sel ≠ .pktLen := by cases sel <;> decide

theorem addrReg_ne_progress (sel : AddrSel) : addrReg sel ≠ .progress := by cases sel <;> decide

theorem runCommand_keeps_inv (c : Cmd) {s : State} (h : Begun s) : Inv (runCommand c s) := by
  have hi := h.inv
  have hq := h.seqrIdle
  rcases runCommand_cases c s with ⟨e, hc⟩ | ⟨-, hc⟩ | ⟨sel, v, -, hc⟩ | ⟨-, hl, -, hc⟩ | ⟨-, hc⟩ | ⟨-, hc⟩ |
    ⟨-, hl, hr, hc⟩ | ⟨-, -, -, -, hc⟩
  · rw [hc]
    exact finish_idle_keeps_inv hi hq e
  · rw [hc]
    exact finish_idle_keeps_inv (storeChecksum_keeps_inv hi) (storeChecksum_begun h).seqrIdle .ok
  · rw [hc]
    exact finish_idle_keeps_inv (setReg_keeps_inv hi v (addrReg_ne_pktLen sel) (addrReg_ne_progress sel)) hq .ok
  · rw [hc]
    exact finish_idle_keeps_inv (storeFrame_keeps_inv hi hl) hq .ok
  · rw [hc]
    exact start_meets_inv h (toneScript_fresh s) (by simp [State.toneScript, maxProgress])
  · rw [hc]
    exact start_meets_inv h (modulateScript_fresh s) (modulateScript_length_le hi)
  · rw [hc]
    exact start_meets_inv (storeChecksum_begun h) (sendScript_fresh s) (sendScript_length_le hl hr)
  · rw [hc]
    exact start_meets_inv (storeChecksum_begun h) (saveScript_fresh s) (by simp [State.saveScript])

theorem accept_keeps_inv (w : Word) {s : State} (h : Inv s) (hq : s.seqr = .idle) : Inv (accept w s) := by
  have hbegun := beginCommand_begun h hq w
  rcases accept_cases w s with ⟨e, -, ha⟩ | ⟨c, -, ha⟩
  · rw [ha]
    exact finish_idle_keeps_inv hbegun.inv hbegun.seqrIdle .illegalCommand
  · rw [ha]
    exact runCommand_keeps_inv c hbegun

/-! ### Host transactions -/

theorem rd32_keeps_inv (a : Word) {s : State} (h : Inv s) : Inv (rd32 a s) := by
  rcases rd32_cases a s with ⟨-, hr⟩ | ⟨r, -, hr⟩
  · rw [hr]; exact refuseRead_keeps_inv h
  · rw [hr]; exact respond_keeps_inv h _

theorem rd8_keeps_inv (a : Word) {s : State} (h : Inv s) : Inv (rd8 a s) := by
  rcases rd8_cases a s with ⟨-, hr⟩ | ⟨X, o, -, hr⟩
  · rw [hr]; exact refuseRead_keeps_inv h
  · rw [hr]; exact respond_keeps_inv h _

theorem writableReg_ne {r : Reg} (h : writableReg r = true) : r ≠ .pktLen ∧ r ≠ .progress := by
  constructor
  · rintro rfl; cases h
  · rintro rfl; cases h

theorem wr32_keeps_inv (a d : Word) {s : State} (h : Inv s) : Inv (wr32 a d s) := by
  have hn := noResponse_keeps_inv h
  rcases wr32_cases a d s with hw | hw | ⟨hb, -, hw⟩ | ⟨-, -, hw⟩ | ⟨r, -, -, hr, -, -, hw⟩
  · rw [hw]; exact refuseWrite_keeps_inv h
  · rw [hw]; exact discardWrite_keeps_inv h
  · rw [hw]; exact accept_keeps_inv d hn (h.seqr_idle hb)
  · rw [hw]; exact clearStatus_keeps_inv hn d
  · rw [hw]; exact setReg_keeps_inv hn d (writableReg_ne hr).1 (writableReg_ne hr).2

theorem wr8_keeps_inv (a d : Word) {s : State} (h : Inv s) : Inv (wr8 a d s) := by
  rcases wr8_cases a d s with hw | hw | ⟨X, o, -, hbuf, -, hw⟩
  · rw [hw]; exact refuseWrite_keeps_inv h
  · rw [hw]; exact discardWrite_keeps_inv h
  · rw [hw]
    obtain ⟨hholds, -, ha⟩ := bufAt_eq_some hbuf
    have hrange := (Buf_holds_iff _ _).mp hholds
    exact memWrite_keeps_inv (noResponse_keeps_inv h) (by rw [List.length_singleton]; omega)

/-- A decoded transaction is one of the four. -/
theorem exec_decodeHbt_keeps_inv (w : HbtWord) {s t : State} (h : Inv s) (ht : exec (decodeHbt w) s = .next t) :
    Inv t := by
  unfold decodeHbt at ht
  split at ht <;> obtain rfl := Host.Outcome.next.inj ht
  · exact rd32_keeps_inv _ h
  · exact wr32_keeps_inv _ _ h
  · exact rd8_keeps_inv _ h
  · exact wr8_keeps_inv _ _ h

end Sys2Proof.Machine
end

section
/-! What a sink's answer keeps of the invariant (spec/46_sequencer.md R173 to R176). -/

namespace Sys2Proof.Machine

/-- The offered event `e`, the events `rest` after it, `opened` and `aborting` of a legal running SEQR
(spec/10_state.md R48, spec/46_sequencer.md R170, R175). -/
inductive Offered : Event → List Event → Bool → Bool → Prop
  /-- The AOpen of an audio script. -/
  | opening {rest} (hrest : playsThenClose rest = true) : Offered .aOpen rest false false
  /-- The one FWrite of SAVE. -/
  | writing (id samples sr) : Offered (.fWrite id samples sr) [] false false
  /-- An APlay or APause to the acquired sink. -/
  | playing {e rest} (he : e.isPlayOrPause = true) (hrest : playsThenClose rest = true) : Offered e rest true false
  /-- The AClose that ends an audio script. -/
  | closing : Offered .aClose [] true false
  /-- The AClose that releases the sink after a failure. -/
  | releasing : Offered .aClose [] true true

theorem offered_of_legal {e : Event} {rest : List Event} {opened aborting : Bool}
    (h : (Seqr.run (e :: rest) opened aborting).legal = true) : Offered e rest opened aborting := by
  cases opened <;> cases aborting
  case false.true => cases h
  case true.true =>
    obtain ⟨rfl, rfl⟩ : e = .aClose ∧ rest = [] := by simpa [Seqr.legal] using h
    exact .releasing
  case false.false =>
    cases e with
    | aOpen => exact .opening h
    | fWrite id samples sr => rw [List.isEmpty_iff.mp h]; exact .writing id samples sr
    | aPlay buf sr => cases h
    | aPause d => cases h
    | aClose => cases h
  case true.false =>
    cases e with
    | aPlay buf sr => exact .playing rfl h
    | aPause d => exact .playing rfl h
    | aClose => rw [List.isEmpty_iff.mp h]; exact .closing
    | aOpen => cases h
    | fWrite id samples sr => cases h

/-! ### What an answer does, by the offered event -/

theorem answerOk_of_last (e : Event) (opened : Bool) (s : State) :
    answerOk e [] opened false s = finish .ok (advanceProgress (sinkOpenAfterOk e s)) := rfl

theorem answerOk_of_rest (e : Event) {rest : List Event} (hrest : playsThenClose rest = true) (opened : Bool) (s : State) :
    answerOk e rest opened false s =
      { advanceProgress (sinkOpenAfterOk e s) with seqr := .run rest (openedAfterOk e opened) false } := by
  cases rest with
  | nil => cases hrest
  | cons e' rest' => rfl

theorem sinkOpenAfterOk_of_play {e : Event} (he : e.isPlayOrPause = true) (s : State) : sinkOpenAfterOk e s = s := by
  cases e with
  | aPlay buf sr => rfl
  | aPause d => rfl
  | aOpen => cases he
  | aClose => cases he
  | fWrite id samples sr => cases he

theorem openedAfterOk_of_play {e : Event} (he : e.isPlayOrPause = true) (opened : Bool) :
    openedAfterOk e opened = opened := by
  cases e with
  | aPlay buf sr => rfl
  | aPause d => rfl
  | aOpen => cases he
  | aClose => cases he
  | fWrite id samples sr => cases he

theorem answerFail_of_play {e : Event} (he : e.isPlayOrPause = true) (s : State) :
    answerFail e false s = { s with seqr := .run [.aClose] true true } := by
  cases e with
  | aPlay buf sr => rfl
  | aPause d => rfl
  | aOpen => cases he
  | aClose => cases he
  | fWrite id samples sr => cases he

/-! ### The answers keep the invariant -/

/-- A script goes on: of STATUS only SINK_OPEN may have changed, to the new `opened`. -/
theorem run_meets_inv {s t : State} {es : List Event} {opened aborting : Bool} (h : Inv s)
    (hrun : s.seqr.running = true) (hmem : t.mem = s.mem) (hpkt : t.regs.pktLen = s.regs.pktLen)
    (hstatus : t.regs.status = s.regs.status.withSinkOpen opened)
    (hlegal : (Seqr.run es opened aborting).legal = true)
    (hprog : t.regs.progress.toNat + es.length ≤ maxProgress) :
    Inv { t with seqr := .run es opened aborting } where
  memCanonical := by rw [hmem]; exact h.memCanonical
  memMapped := by rw [hmem]; exact h.memMapped
  busyRuns := by rw [hstatus]; exact h.busyRuns.trans hrun
  sinkOpenIsOpened := by rw [hstatus]; rfl
  scriptLegal := hlegal
  errProduced := by rw [hstatus]; exact h.errProduced
  runningNotDone := by rw [hstatus]; exact fun _ => h.runningNotDone hrun
  errIsDone := by rw [hstatus]; exact h.errIsDone
  pktLenBound := by rw [hpkt]; exact h.pktLenBound
  progressBound := hprog

section Answers
variable {s : State} {e : Event} {rest : List Event} {opened aborting : Bool}

/-- PROGRESS does not wrap when the offered event is answered (spec/10_state.md R47). -/
theorem progress_succ_le (h : Inv s) (hq : s.seqr = .run (e :: rest) opened aborting) :
    (s.regs.progress + 1).toNat + rest.length ≤ maxProgress := by
  have hbound := h.progressBound
  simp only [hq, Seqr.script, List.length_cons, maxProgress] at hbound
  rw [BitVec.toNat_add, maxProgress, show (1 : Word).toNat = 1 from rfl]
  omega

theorem answerOk_keeps_inv (h : Inv s) (hq : s.seqr = .run (e :: rest) opened aborting) :
    Inv (answerOk e rest opened aborting s) := by
  have hrun : s.seqr.running = true := by rw [hq]; rfl
  have hsink : s.regs.status.sinkOpen = opened := by rw [h.sinkOpenIsOpened, hq]; rfl
  have hprog := progress_succ_le h hq
  cases offered_of_legal (hq ▸ h.scriptLegal) with
  | opening hrest =>
    rw [answerOk_of_rest _ hrest]
    exact run_meets_inv h hrun rfl rfl rfl hrest hprog
  | writing id samples sr =>
    rw [answerOk_of_last]
    exact finish_meets_inv h .ok rfl rfl hprog hsink
  | playing he hrest =>
    rw [answerOk_of_rest _ hrest, sinkOpenAfterOk_of_play he, openedAfterOk_of_play he]
    exact run_meets_inv h hrun rfl rfl (by rw [Status.withSinkOpen, ← hsink]; rfl) hrest hprog
  | closing =>
    rw [answerOk_of_last]
    exact finish_meets_inv h .ok rfl rfl hprog rfl
  | releasing => exact finish_meets_inv h .sinkFailure rfl rfl h.progress_le rfl

theorem answerFail_keeps_inv (h : Inv s) (hq : s.seqr = .run (e :: rest) opened aborting) :
    Inv (answerFail e aborting s) := by
  have hrun : s.seqr.running = true := by rw [hq]; rfl
  have hsink : s.regs.status.sinkOpen = opened := by rw [h.sinkOpenIsOpened, hq]; rfl
  cases offered_of_legal (hq ▸ h.scriptLegal) with
  | opening => exact finish_meets_inv h .sinkFailure rfl rfl h.progress_le hsink
  | writing => exact finish_meets_inv h .sinkFailure rfl rfl h.progress_le hsink
  | playing he =>
    have hone : s.regs.progress.toNat + [Event.aClose].length ≤ maxProgress := by
      have hbound := h.progressBound
      simp only [hq, Seqr.script, List.length_cons] at hbound
      rw [List.length_singleton]
      omega
    rw [answerFail_of_play he]
    exact run_meets_inv h hrun rfl rfl (by rw [Status.withSinkOpen, ← hsink]) rfl hone
  | closing => exact finish_meets_inv h .sinkFailure rfl rfl h.progress_le rfl
  | releasing => exact finish_meets_inv h .sinkFailure rfl rfl h.progress_le rfl

theorem answered_keeps_inv (h : Inv s) (hq : s.seqr = .run (e :: rest) opened aborting) (r : Answer) :
    Inv (answered e rest opened aborting r s) := by
  have hrec := recordAnswer_keeps_inv h e r
  have hqrec : (recordAnswer e r s).seqr = .run (e :: rest) opened aborting := by rw [recordAnswer_seqr, hq]
  cases r with
  | ok => exact answerOk_keeps_inv hrec hqrec
  | fail => exact answerFail_keeps_inv hrec hqrec

end Answers

/-- Settles O53: waiting keeps the state, a transaction and an answer keep the invariant by the rules of what they do,
and the reset input restores a state that meets it. -/
theorem everyStepKeepsTheInvariant : Obligations.EveryStepKeepsTheInvariant := by
  intro s t h ht
  have htaken : ∀ rest, Inv { s with inputs := rest } := fun _ => h.of_eq rfl rfl rfl rfl rfl
  rcases step_next_cases ht with ⟨-, rfl⟩ | ⟨w, rest, -, hexec⟩ | ⟨r, rest, -, hans⟩ | ⟨rest, -, rfl⟩
  · exact h
  · exact exec_decodeHbt_keeps_inv w (htaken rest) hexec
  · obtain ⟨e, es, opened, aborting, hq, rfl⟩ := sinkAnswer_next hans
    exact answered_keeps_inv (htaken rest) hq r
  · exact hardReset_meets_inv _ _

end Sys2Proof.Machine
end

section
/-! The address map: which buffer and which register an address names (spec/20_memory.md R51, spec/10_state.md R23,
spec/40_host_access.md R90). -/

namespace Sys2Proof.Machine

/-- Two buffers share no address: one ends before the other begins. -/
theorem Buf_ranges_disjoint {X Y : Buf} (h : X ≠ Y) : X.base + X.size ≤ Y.base ∨ Y.base + Y.size ≤ X.base := by
  revert h
  cases X <;> cases Y <;> decide

theorem Buf_eq_of_holds {X Y : Buf} {a : Nat} (hX : X.holds a = true) (hY : Y.holds a = true) : X = Y := by
  by_contra hne
  have hdisj := Buf_ranges_disjoint hne
  rw [Buf_holds_iff] at hX hY
  omega

theorem bufAt_of_holds {a : Word} {X : Buf} (h : X.holds a.toNat = true) : bufAt a = some (X, a.toNat - X.base) := by
  cases hb : bufAt a with
  | none =>
    have hsome := inSomeBuffer_of_holds X a.toNat h
    rw [bufAt_eq_none hb] at hsome
    cases hsome
  | some p =>
    obtain ⟨Y, o⟩ := p
    obtain ⟨hY, rfl, -⟩ := bufAt_eq_some hb
    rw [Buf_eq_of_holds hY h]

theorem bufAt_eq_some_iff (a : Word) (X : Buf) (o : Nat) :
    bufAt a = some (X, o) ↔ (X.base ≤ a.toNat ∧ a.toNat < X.base + X.size) ∧ o = a.toNat - X.base := by
  rw [← Buf_holds_iff]
  constructor
  · intro h
    obtain ⟨hholds, ho, -⟩ := bufAt_eq_some h
    exact ⟨hholds, ho⟩
  · rintro ⟨hholds, rfl⟩
    exact bufAt_of_holds hholds

/-- Settles O13: `bufAt` answers exactly the buffer whose range holds the address, and the five ranges are the map's. -/
theorem buffersLieWhereTheMapSays : Obligations.BuffersLieWhereTheMapSays := by
  intro a o
  simp only [bufAt_eq_some_iff, Buf.base, Buf.size, Config.msgCap, Config.cksumLen, Config.textCap,
    Config.pktCap]
  omega

/-- The only address of a register is its offset. -/
theorem regAt_eq_some {a : Word} {r : Reg} (h : regAt a = some r) : a = r.addr := by
  have hmem : (a.toNat, r) ∈ regMap := by
    obtain ⟨l₁, l₂, hsplit, -⟩ := List.lookup_eq_some_iff.mp h
    rw [hsplit]
    simp
  have haddr : ∀ row ∈ regMap, BitVec.ofNat 32 row.1 = row.2.addr := by decide
  rw [← haddr _ hmem, BitVec.ofNat_toNat, BitVec.setWidth_eq]

end Sys2Proof.Machine
end

section
/-! What a host transaction can do, said once, and what it leaves unchanged (spec/40_host_access.md R91 to R99). -/

namespace Sys2Proof.Machine

/-- `HostEffect s i t`: from `s`, the host transaction `i` leaves `t`. -/
inductive HostEffect (s : State) : Instr → State → Prop
  | readRefused (i) : HostEffect s i (refuseRead s)
  | readAnswered (i v) : HostEffect s i (respond v s)
  | writeRefused (i) : HostEffect s i (refuseWrite s)
  | writeDiscarded (i) : HostEffect s i (discardWrite s)
  | accepted (w) (hb : s.regs.status.busy = false) : HostEffect s (.wr32 0x00 w) (accept w (noResponse s))
  | statusCleared (d) (hb : s.regs.status.busy = false) : HostEffect s (.wr32 0x04 d) (clearStatus d (noResponse s))
  | registerStored (a d) {r} (hb : s.regs.status.busy = false) (ha : regAt a = some r) (hr : writableReg r = true)
      (hcmd : r ≠ .cmd) (hstatus : r ≠ .status) : HostEffect s (.wr32 a d) (setReg r d (noResponse s))
  | byteStored (a d) {X o} (hb : s.regs.status.busy = false) (ha : bufAt a = some (X, o)) (hX : writableBuf X = true) :
      HostEffect s (.wr8 a d) (memWrite X o [d.extractLsb' 0 8] (noResponse s))

theorem rd32_effect (a d : Word) (s : State) : HostEffect s (.rd32 a d) (rd32 a s) := by
  rcases rd32_cases a s with ⟨-, h⟩ | ⟨r, -, h⟩
  · rw [h]; exact .readRefused _
  · rw [h]; exact .readAnswered _ _

theorem rd8_effect (a d : Word) (s : State) : HostEffect s (.rd8 a d) (rd8 a s) := by
  rcases rd8_cases a s with ⟨-, h⟩ | ⟨X, o, -, h⟩
  · rw [h]; exact .readRefused _
  · rw [h]; exact .readAnswered _ _

theorem wr32_effect (a d : Word) (s : State) : HostEffect s (.wr32 a d) (wr32 a d s) := by
  rcases wr32_cases a d s with h | h | ⟨hb, ha, h⟩ | ⟨hb, ha, h⟩ | ⟨r, hb, ha, hr, hcmd, hstatus, h⟩
  · rw [h]; exact .writeRefused _
  · rw [h]; exact .writeDiscarded _
  · rw [h, regAt_eq_some ha]; exact .accepted d hb
  · rw [h, regAt_eq_some ha]; exact .statusCleared d hb
  · rw [h]; exact .registerStored a d hb ha hr hcmd hstatus

theorem wr8_effect (a d : Word) (s : State) : HostEffect s (.wr8 a d) (wr8 a d s) := by
  rcases wr8_cases a d s with h | h | ⟨X, o, hb, ha, hX, h⟩
  · rw [h]; exact .writeRefused _
  · rw [h]; exact .writeDiscarded _
  · rw [h]; exact .byteStored a d hb ha hX

theorem exec_decodeHbt_effect {x : HbtWord} {i : Instr} {s t : State} (hx : decodeHbt x = i) (ht : exec i s = .next t) :
    HostEffect s i t := by
  subst hx
  unfold decodeHbt at ht ⊢
  split at ht <;> obtain rfl := Host.Outcome.next.inj ht
  · exact rd32_effect _ _ s
  · exact wr32_effect _ _ s
  · exact rd8_effect _ _ s
  · exact wr8_effect _ _ s

/-- R98: while BUSY = 1 every write is refused or discarded, so a transaction changes STATUS and what the bus returns. -/
theorem HostEffect.eq_of_busy {s t : State} {i : Instr} (h : HostEffect s i t) (hb : s.regs.status.busy = true) :
    t = { s with hostData := t.hostData, regs := { s.regs with status := t.regs.status } } := by
  cases h with
  | readRefused => rfl
  | readAnswered => rfl
  | writeRefused => rfl
  | writeDiscarded => rfl
  | accepted w hidle => rw [hb] at hidle; cases hidle
  | statusCleared d hidle => rw [hb] at hidle; cases hidle
  | registerStored _ _ hidle => rw [hb] at hidle; cases hidle
  | byteStored _ _ hidle => rw [hb] at hidle; cases hidle

/-- Settles O21: of the effects of a transaction only an accepted command reaches a read-only register or field; a stored
register is none of the three, and W1C reaches ERR only with the bit of DONE. -/
theorem readOnlyRegistersStayUnderHostAccess : Obligations.ReadOnlyRegistersStayUnderHostAccess := by
  intro s t i x hx hnocmd ht
  cases exec_decodeHbt_effect hx ht with
  | readRefused => exact ⟨rfl, rfl, rfl, rfl, rfl, .inl rfl⟩
  | readAnswered => exact ⟨rfl, rfl, rfl, rfl, rfl, .inl rfl⟩
  | writeRefused => exact ⟨rfl, rfl, rfl, rfl, rfl, .inl rfl⟩
  | writeDiscarded => exact ⟨rfl, rfl, rfl, rfl, rfl, .inl rfl⟩
  | accepted w hidle =>
    rw [hnocmd w rfl] at hidle
    cases hidle
  | statusCleared d =>
    refine ⟨rfl, rfl, rfl, rfl, rfl, ?_⟩
    cases hd : d.getLsbD 1 with
    | false => exact .inl (by simp only [clearStatus_regs, Status_w1c_err, hd]; rfl)
    | true => exact .inr ⟨d, rfl, hd⟩
  | registerStored _ _ _ _ hr hcmd =>
    obtain ⟨hpkt, hprog⟩ := writableReg_ne hr
    simp [hpkt, hprog, hcmd]
  | byteStored => exact ⟨rfl, rfl, rfl, rfl, rfl, .inl rfl⟩

end Sys2Proof.Machine
end

section
/-! While a script runs its operands stand still (spec/20_memory.md R62, R65, spec/46_sequencer.md R188). -/

namespace Sys2Proof.Machine

/-- No buffer byte and no register but STATUS and PROGRESS differs between `s` and `t`. -/
structure OperandsKept (s t : State) : Prop where
  mem : t.mem = s.mem
  drawEpoch : t.drawEpoch = s.drawEpoch
  regs : t.regs = { s.regs with status := t.regs.status, progress := t.regs.progress }

theorem OperandsKept.trans {s t u : State} (h : OperandsKept s t) (h' : OperandsKept t u) : OperandsKept s u where
  mem := h'.mem.trans h.mem
  drawEpoch := h'.drawEpoch.trans h.drawEpoch
  regs := h'.regs.trans (by rw [h.regs])

theorem recordAnswer_keeps_operands (e : Event) (r : Answer) (s : State) : OperandsKept s (recordAnswer e r s) :=
  ⟨recordAnswer_mem e r s, recordAnswer_drawEpoch e r s, by rw [recordAnswer_regs]⟩

theorem sinkOpenAfterOk_keeps_operands (e : Event) (s : State) : OperandsKept s (sinkOpenAfterOk e s) := by
  cases e <;> exact ⟨rfl, rfl, rfl⟩

theorem answerOk_keeps_operands (e : Event) (rest : List Event) (opened aborting : Bool) (s : State) :
    OperandsKept s (answerOk e rest opened aborting s) := by
  refine (sinkOpenAfterOk_keeps_operands e s).trans ?_
  unfold answerOk
  split
  · exact ⟨rfl, rfl, rfl⟩
  · split <;> exact ⟨rfl, rfl, rfl⟩

theorem answerFail_keeps_operands (e : Event) (aborting : Bool) (s : State) :
    OperandsKept s (answerFail e aborting s) := by
  unfold answerFail
  split
  · exact ⟨rfl, rfl, rfl⟩
  · split <;> exact ⟨rfl, rfl, rfl⟩

theorem answered_keeps_operands (e : Event) (rest : List Event) (opened aborting : Bool) (r : Answer) (s : State) :
    OperandsKept s (answered e rest opened aborting r s) := by
  refine (recordAnswer_keeps_operands e r s).trans ?_
  cases r with
  | ok => exact answerOk_keeps_operands _ _ _ _ _
  | fail => exact answerFail_keeps_operands _ _ _

/-- Settles O56: a running script has BUSY = 1, so a transaction changes STATUS only; an answer keeps the operands. -/
theorem runningScriptIsFrozen : Obligations.RunningScriptIsFrozen := by
  intro s t h hrun hreset ht
  have hbusy : s.regs.status.busy = true := h.busyRuns.trans hrun
  rcases step_next_cases ht with ⟨-, rfl⟩ | ⟨w, rest, -, hexec⟩ | ⟨r, rest, hin, hans⟩ | ⟨rest, hin, -⟩
  · exact ⟨rfl, rfl, rfl, fun _ _ _ => ⟨rfl, rfl⟩⟩
  · rw [(exec_decodeHbt_effect rfl hexec).eq_of_busy hbusy]
    exact ⟨rfl, rfl, rfl, fun _ _ _ => ⟨rfl, rfl⟩⟩
  · obtain ⟨e, es, opened, aborting, -, rfl⟩ := sinkAnswer_next hans
    have hkept := answered_keeps_operands e es opened aborting r { s with inputs := rest }
    refine ⟨hkept.mem, hkept.drawEpoch, hkept.regs, fun w rest' hbus => ?_⟩
    rw [hin] at hbus
    cases hbus
  · exact absurd hin (hreset rest)

end Sys2Proof.Machine
end

section
/-! The bytes of MSG beyond the message influence nothing (spec/20_memory.md R52, spec/10_state.md R32): the relation of
two states that differ in them only is kept by every command. -/

namespace Sys2Proof.Machine

/-- `s` and `u` differ at most in the bytes MSG[L..65535). -/
structure SameButTail (L : Nat) (s u : State) : Prop where
  memOnly : ∃ m, u = { s with mem := m }
  canonical : Memory.wf s.mem = true
  canonical' : Memory.wf u.mem = true
  bytes : ∀ a, ¬(0x00010000 + L ≤ a ∧ a ≤ 0x0001FFFE) → u.readByte a = s.readByte a

namespace SameButTail

/-! ### What the updates keep of the relation -/

section Updates
variable {L : Nat} {s u : State}

theorem regs (h : SameButTail L s u) : u.regs = s.regs := by
  obtain ⟨m, rfl⟩ := h.memOnly
  rfl

theorem finish (h : SameButTail L s u) (e : ErrCode) : SameButTail L (finish e s) (finish e u) where
  memOnly := by obtain ⟨m, rfl⟩ := h.memOnly; exact ⟨m, rfl⟩
  canonical := h.canonical
  canonical' := h.canonical'
  bytes := h.bytes

theorem start (h : SameButTail L s u) (es : List Event) : SameButTail L (start es s) (start es u) where
  memOnly := by obtain ⟨m, rfl⟩ := h.memOnly; exact ⟨m, rfl⟩
  canonical := h.canonical
  canonical' := h.canonical'
  bytes := h.bytes

theorem setReg (h : SameButTail L s u) (r : Reg) (v : Word) : SameButTail L (setReg r v s) (setReg r v u) where
  memOnly := by obtain ⟨m, rfl⟩ := h.memOnly; exact ⟨m, rfl⟩
  canonical := h.canonical
  canonical' := h.canonical'
  bytes := h.bytes

theorem memWrite (h : SameButTail L s u) (X : Buf) (o : Nat) (v : List Byte) :
    SameButTail L (memWrite X o v s) (memWrite X o v u) where
  memOnly := by obtain ⟨m, rfl⟩ := h.memOnly; exact ⟨_, rfl⟩
  canonical := Memory_putList_wf _ _ _ h.canonical
  canonical' := Memory_putList_wf _ _ _ h.canonical'
  bytes a ha := by rw [readByte_memWrite _ _ _ _ h.canonical, readByte_memWrite _ _ _ _ h.canonical', h.bytes a ha]

theorem ite {p q : Prop} [Decidable p] [Decidable q] (hpq : q ↔ p) {s₁ u₁ s₂ u₂ : State} (h₁ : SameButTail L s₁ u₁)
    (h₂ : SameButTail L s₂ u₂) : SameButTail L (if p then s₁ else s₂) (if q then u₁ else u₂) := by
  by_cases hp : p
  · rwa [if_pos hp, if_pos (hpq.mpr hp)]
  · rwa [if_neg hp, if_neg (mt hpq.mp hp)]

end Updates

/-! ### What a command reads -/

section Operands
variable {s u : State}

theorem msgLength {L : Nat} (h : SameButTail L s u) : u.msgLength = s.msgLength := by
  rw [State.msgLength, h.regs]

theorem textLength {L : Nat} (h : SameButTail L s u) (sel : AddrSel) : u.textLength sel = s.textLength sel := by
  unfold State.textLength
  rw [h.regs]

theorem lengthExceeded_iff {L : Nat} (h : SameButTail L s u) : u.lengthExceeded ↔ s.lengthExceeded := by
  unfold State.lengthExceeded
  rw [h.msgLength]

theorem seqExceeded_iff {L : Nat} (h : SameButTail L s u) : u.seqExceeded ↔ s.seqExceeded := by
  unfold State.seqExceeded
  rw [h.regs]

theorem redundancyExceeded_iff {L : Nat} (h : SameButTail L s u) : u.redundancyExceeded ↔ s.redundancyExceeded := by
  unfold State.redundancyExceeded State.redundancyCount
  rw [h.regs]

theorem textExceeded_iff {L : Nat} (h : SameButTail L s u) (sel : AddrSel) : u.textExceeded sel ↔ s.textExceeded sel := by
  unfold State.textExceeded
  rw [h.textLength]

theorem memRead_past_msg {L : Nat} (h : SameButTail L s u) {X : Buf} (hX : 0x0001FFFE < X.base) (o n : Nat) :
    memRead X o n u = memRead X o n s :=
  memRead_congr X o n s u fun _ _ => h.bytes _ (by omega)

theorem message (h : SameButTail s.msgLength s u) : u.message = s.message := by
  unfold State.message
  rw [h.msgLength]
  exact memRead_congr _ _ _ _ _ fun i hi => h.bytes _ (by rw [Buf.base]; omega)

theorem storedChecksum {L : Nat} (h : SameButTail L s u) : u.storedChecksum = s.storedChecksum :=
  h.memRead_past_msg (by decide) _ _

theorem storedPacket {L : Nat} (h : SameButTail L s u) : u.storedPacket = s.storedPacket := by
  unfold State.storedPacket
  rw [h.regs]
  exact h.memRead_past_msg (by decide) _ _

theorem addrText {L : Nat} (h : SameButTail L s u) (sel : AddrSel) : u.addrText sel = s.addrText sel := by
  have hbase : 0x0001FFFE < (textBuf sel).base := by cases sel <;> decide
  unfold State.addrText
  rw [h.textLength]
  exact h.memRead_past_msg hbase _ _

theorem framedPacket (h : SameButTail s.msgLength s u) : u.framedPacket = s.framedPacket := by
  unfold State.framedPacket
  rw [h.regs, h.storedChecksum, h.message]

theorem packets (h : SameButTail s.msgLength s u) : u.packets = s.packets := by
  unfold State.packets State.redundancyCount
  rw [h.regs, h.message]

theorem storeChecksum (h : SameButTail s.msgLength s u) :
    SameButTail s.msgLength (storeChecksum s) (storeChecksum u) := by
  rw [storeChecksum_eq, storeChecksum_eq, h.message]
  exact h.memWrite _ _ _

/-! ### The scripts: a packet's events and samples are functions of the packet and the registers -/

theorem modulateScript {L : Nat} (h : SameButTail L s u) : u.modulateScript = s.modulateScript := by
  have hpkt := h.storedPacket
  obtain ⟨m, rfl⟩ := h.memOnly
  unfold State.modulateScript
  rw [hpkt]
  rfl

theorem sendScript (h : SameButTail s.msgLength s u) : u.sendScript = s.sendScript := by
  have hpkts := h.packets
  obtain ⟨m, rfl⟩ := h.memOnly
  unfold State.sendScript
  rw [hpkts]
  rfl

theorem saveScript (h : SameButTail s.msgLength s u) : u.saveScript = s.saveScript := by
  have hpkts := h.packets
  obtain ⟨m, rfl⟩ := h.memOnly
  unfold State.saveScript State.assemble
  rw [hpkts]
  rfl

theorem toneScript {L : Nat} (h : SameButTail L s u) : u.toneScript = s.toneScript := by
  obtain ⟨m, rfl⟩ := h.memOnly
  rfl

/-! ### The commands -/

theorem digest (h : SameButTail s.msgLength s u) : SameButTail s.msgLength (digest s) (digest u) :=
  .ite h.lengthExceeded_iff (h.finish _) (h.storeChecksum.finish .ok)

theorem parseAddr {L : Nat} (h : SameButTail L s u) (sel : AddrSel) :
    SameButTail L (parseAddr sel s) (parseAddr sel u) := by
  unfold Machine.parseAddr
  rw [h.addrText]
  refine .ite (h.textExceeded_iff sel) (h.finish _) ?_
  cases parseDotted (s.addrText sel) with
  | none => exact h.finish _
  | some v => exact (h.setReg _ _).finish .ok

theorem buildPacket (h : SameButTail s.msgLength s u) : SameButTail s.msgLength (buildPacket s) (buildPacket u) := by
  refine .ite h.lengthExceeded_iff (h.finish _) (.ite h.seqExceeded_iff (h.finish _) ?_)
  rw [h.framedPacket, h.msgLength]
  exact ((h.memWrite _ _ _).setReg _ _).finish .ok

theorem genTone {L : Nat} (h : SameButTail L s u) : SameButTail L (genTone s) (genTone u) := by
  unfold Machine.genTone
  rw [h.toneScript]
  exact h.start _

theorem modulate {L : Nat} (h : SameButTail L s u) : SameButTail L (modulate s) (modulate u) := by
  unfold Machine.modulate
  rw [h.modulateScript]
  exact h.start _

theorem send (h : SameButTail s.msgLength s u) : SameButTail s.msgLength (send s) (send u) := by
  refine .ite h.lengthExceeded_iff (h.finish _) (.ite h.redundancyExceeded_iff (h.finish _) ?_)
  rw [h.sendScript]
  exact h.storeChecksum.start _

theorem save (h : SameButTail s.msgLength s u) : SameButTail s.msgLength (save s) (save u) := by
  refine .ite h.lengthExceeded_iff (h.finish _) (.ite h.redundancyExceeded_iff (h.finish _)
    (.ite (by rw [h.regs]) (h.finish _) ?_))
  rw [h.saveScript]
  exact h.storeChecksum.start _

theorem runCommand (h : SameButTail s.msgLength s u) (c : Cmd) :
    SameButTail s.msgLength (runCommand c s) (runCommand c u) := by
  cases c with
  | digest => exact h.digest
  | parseAddr sel => exact h.parseAddr sel
  | buildPacket => exact h.buildPacket
  | genTone => exact h.genTone
  | modulate => exact h.modulate
  | send => exact h.send
  | save => exact h.save

end Operands

end SameButTail

/-- Settles O58: a command reads no byte beyond the message, so it keeps two states that differ in those bytes only so. -/
theorem bytesBeyondTheMessageAreIgnored : Obligations.BytesBeyondTheMessageAreIgnored := by
  intro c s t t' m hs hm hbytes ht ht'
  have hsame : SameButTail s.msgLength s { s with mem := m } := ⟨⟨m, rfl⟩, hs, hm, hbytes⟩
  rw [exec_command] at ht ht'
  obtain rfl := Host.Outcome.next.inj ht
  obtain rfl := Host.Outcome.next.inj ht'
  have hresult := hsame.runCommand c
  obtain ⟨m', hm'⟩ := hresult.memOnly
  exact ⟨by rw [hm'], hresult.bytes⟩

end Sys2Proof.Machine
end

section
/-! Encoding and decoding undo each other, and the fields of a word as numbers (spec/30_encoding.md R70 to R80). -/

namespace Sys2Proof

/-! ### Encoding, then decoding -/

theorem decodeHbt_rd32 (addr data : Word) : decodeHbt (hbtOf 0b00 addr data) = .rd32 addr data := by
  simp [decodeHbt, kindField_hbtOf, addrField_hbtOf, dataField_hbtOf]

theorem decodeHbt_rd8 (addr data : Word) : decodeHbt (hbtOf 0b10 addr data) = .rd8 addr data := by
  simp [decodeHbt, kindField_hbtOf, addrField_hbtOf, dataField_hbtOf]

theorem decodeHbt_wr8 (addr data : Word) : decodeHbt (hbtOf 0b11 addr data) = .wr8 addr data := by
  simp [decodeHbt, kindField_hbtOf, addrField_hbtOf, dataField_hbtOf]

theorem encode_toInstr (c : Cmd) : encode c.toInstr = .cmdw (encodeCmdw c) := by
  cases c <;> rfl

/-- Settles O1: a command's word is one of eight, and a transaction's word is read back by its fields. -/
theorem everyInstructionDecodesBack : Obligations.EveryInstructionDecodesBack := by
  intro i
  cases i with
  | parseAddr sel => cases sel <;> rfl
  | rd32 addr data => exact congrArg Except.ok (decodeHbt_rd32 addr data)
  | wr32 addr data => exact congrArg Except.ok (decodeHbt_wr32 addr data)
  | rd8 addr data => exact congrArg Except.ok (decodeHbt_rd8 addr data)
  | wr8 addr data => exact congrArg Except.ok (decodeHbt_wr8 addr data)
  | digest | buildPacket | genTone | modulate | send | save => rfl

/-! ### The number of a transaction -/

/-- R76: the number of a transaction is KIND || ADDR || DATA. -/
theorem toNat_eq_fields (t : HbtWord) :
    t.toNat = (kindField t).toNat * 2 ^ 64 + (addrField t).toNat * 2 ^ 32 + (dataField t).toNat := by
  have ht := t.isLt
  simp only [kindField, addrField, dataField, BitVec.extractLsb'_toNat, Nat.shiftRight_eq_div_pow]
  omega

theorem hbtOf_toNat (kind : BitVec 2) (addr data : Word) :
    (hbtOf kind addr data).toNat = kind.toNat * 2 ^ 64 + addr.toNat * 2 ^ 32 + data.toNat := by
  rw [toNat_eq_fields, kindField_hbtOf, addrField_hbtOf, dataField_hbtOf]

/-- Settles O4: the number is that of the transaction built from its fields, and each KIND is read back as its own. -/
theorem transactionWordsReadTheirFields : Obligations.TransactionWordsReadTheirFields := by
  intro t kind a d h
  have ht (k : BitVec 2) (hk : kind = k.toNat) : t = hbtOf k a d :=
    BitVec.eq_of_toNat_eq (by rw [h, hk, hbtOf_toNat])
  refine ⟨fun hk => ?_, fun hk => ?_, fun hk => ?_, fun hk => ?_⟩
  · rw [ht 0b00 hk, decodeHbt_rd32]
  · rw [ht 0b01 hk, decodeHbt_wr32]
  · rw [ht 0b10 hk, decodeHbt_rd8]
  · rw [ht 0b11 hk, decodeHbt_wr8]

/-! ### Decoding, then encoding -/

theorem hbtOf_fields (t : HbtWord) : hbtOf (kindField t) (addrField t) (dataField t) = t :=
  BitVec.eq_of_toNat_eq (by rw [hbtOf_toNat, ← toNat_eq_fields])

theorem encode_decodeHbt (t : HbtWord) : encode (decodeHbt t) = .hbt t := by
  have hkind (kind : BitVec 2) (h : (kindField t).toNat = kind.toNat) : hbtOf kind (addrField t) (dataField t) = t := by
    rw [← BitVec.eq_of_toNat_eq h, hbtOf_fields]
  unfold decodeHbt
  split
  next h => exact congrArg Wire.hbt (hkind 0b00 h)
  next h => exact congrArg Wire.hbt (hkind 0b01 h)
  next h => exact congrArg Wire.hbt (hkind 0b10 h)
  next h0 h1 h2 =>
    have hlt := (kindField t).isLt
    simp only [imp_false] at h0 h1 h2
    have h3 : (kindField t).toNat = 3 := by omega
    exact congrArg Wire.hbt (hkind 0b11 h3)

/-- Settles O2: a command word that decodes is the encoding of its command, and a transaction is its three fields. -/
theorem everyDecodedWordIsAnEncoding : Obligations.EveryDecodedWordIsAnEncoding := by
  intro x i h
  cases x with
  | cmdw w =>
    obtain ⟨c, hc, rfl⟩ := decode_cmdw_eq_ok h
    rw [encode_toInstr, eq_encodeCmdw_of_decodeCmdw hc]
  | hbt t =>
    rw [← Except.ok.inj h]
    exact encode_decodeHbt t

/-! ### The words the command decoder refuses -/

theorem opcodeField_toNat (w : Word) : (opcodeField w).toNat = w.toNat % 256 := by
  simp [opcodeField]

theorem resField_eq_zero_iff (w : Word) : resField w = 0 ↔ w.toNat / 512 = 0 := by
  have hw := w.isLt
  rw [← BitVec.toNat_inj, resField, BitVec.extractLsb'_toNat, Nat.shiftRight_eq_div_pow]
  show w.toNat / 512 % 8388608 = 0 ↔ _
  omega

theorem withoutSel_error_iff (sel : Bool) (c : Cmd) : (∃ e, withoutSel sel c = .error e) ↔ sel = true := by
  cases sel <;> simp [withoutSel]

/-- `decodeCmdw` refuses a word by its RES, by its SEL unless the opcode is 0x02, and by its opcode. -/
theorem decodeCmdw_error_iff (w : Word) :
    (∃ e, decodeCmdw w = .error e) ↔
      (opcodeField w).toNat = 0 ∨ 8 ≤ (opcodeField w).toNat ∨ resField w ≠ 0 ∨
        (selField w = true ∧ (opcodeField w).toNat ≠ 2) := by
  unfold decodeCmdw
  by_cases hres : resField w = 0
  · rw [if_neg (not_not.mpr hres)]
    split
    next hop => simp [hop, hres, withoutSel_error_iff]
    next hop => simp [hop, hres]
    next hop => simp [hop, hres, withoutSel_error_iff]
    next hop => simp [hop, hres, withoutSel_error_iff]
    next hop => simp [hop, hres, withoutSel_error_iff]
    next hop => simp [hop, hres, withoutSel_error_iff]
    next hop => simp [hop, hres, withoutSel_error_iff]
    next =>
      have hop : (opcodeField w).toNat = 0 ∨ 8 ≤ (opcodeField w).toNat := by
        simp only [imp_false] at *
        omega
      exact iff_of_true ⟨_, rfl⟩ (hop.imp_right .inl)
  · rw [if_pos hres]
    exact iff_of_true ⟨_, rfl⟩ (.inr (.inr (.inl hres)))

/-- Settles O3: the refusals of `decodeCmdw`, with the three fields read from the number. -/
theorem illegalWordsAreExactlyTheListed : Obligations.IllegalWordsAreExactlyTheListed := by
  intro w
  rw [decodeCmdw_error_iff, opcodeField_toNat, Ne, resField_eq_zero_iff]
  rfl

/-! ### Words written out -/

/-- Settles O5: the decoder evaluated on each word. -/
theorem writtenOutWordsDecode : Obligations.WrittenOutWordsDecode := by
  unfold Obligations.WrittenOutWordsDecode
  decide

end Sys2Proof
end

section
/-! The host's programs (spec/30_encoding.md R83): the stores of `wrbytes` and the polls of `waitidle`; and the DATA bits a
transaction ignores (R76). -/

namespace Sys2Proof.Machine

/-! ### Runs -/

theorem run_succ_of_step {M : Host.Core} {s t : M.State} (h : M.step s = .next t) (k : Nat) :
    M.run (k + 1) s = M.run k t := by
  rw [Host.Core.run, h]

theorem run_add_of_run {M : Host.Core} {m : Nat} {s t : M.State} (h : M.run m s = .next t) (n : Nat) :
    M.run (m + n) s = M.run n t := by
  induction m generalizing s with
  | zero => rw [Nat.zero_add, ← Host.Outcome.next.inj h]
  | succ m ih =>
    rw [Host.Core.run] at h
    split at h
    next u hu => rw [Nat.succ_add, run_succ_of_step hu, ih h]
    next => cases h
    next => cases h

/-- A transaction the host presents runs as the next step: it decodes back to its instruction. -/
theorem step_hostInput {s : State} {i : Instr} {x : HbtWord} {rest : List Input} (hi : encode i = .hbt x)
    (hin : s.inputs = hostInput i :: rest) : step s = exec i { s with inputs := rest } := by
  have hdec : decodeHbt x = i := by
    have h := everyInstructionDecodesBack i
    rw [hi] at h
    exact Except.ok.inj h
  have hbus : hostInput i = .bus x := by rw [hostInput, hi]
  rw [step_bus (hbus ▸ hin), hdec]

/-! ### wrbytes -/

theorem expand_wrbytes_cons (X : Buf) (o : Nat) (b : Byte) (bs : List Byte) :
    (Pseudo.wrbytes X o (b :: bs)).expand =
      .wr8 (Buf.addr X o) (b.setWidth 32) :: (Pseudo.wrbytes X (o + 1) bs).expand := by
  simp only [Pseudo.expand, List.zipIdx_cons', List.map_cons, List.map_map, Nat.add_zero, Nat.add_assoc, Nat.add_comm 1]
  rfl

theorem bufAt_addr {X : Buf} {o : Nat} (ho : o < X.size) : bufAt (Buf.addr X o) = some (X, o) := by
  have hfit : X.base + X.size ≤ 2 ^ 32 := by cases X <;> decide
  have haddr : (Buf.addr X o).toNat = X.base + o := by
    rw [Buf.addr, BitVec.toNat_ofNat, Nat.mod_eq_of_lt (by omega)]
  rw [bufAt_eq_some_iff, haddr]
  omega

theorem wr8_addr {X : Buf} {o : Nat} {s : State} (b : Byte) (hb : s.regs.status.busy = false)
    (hX : writableBuf X = true) (ho : o < X.size) :
    wr8 (Buf.addr X o) (b.setWidth 32) s = memWrite X o [b] (noResponse s) := by
  have hbyte : (b.setWidth 32).extractLsb' 0 8 = b := by
    apply BitVec.eq_of_getLsbD_eq
    intro i hi
    simp [hi, show i < 32 by omega]
  simp [wr8, bufAt_addr ho, hX, hb, hbyte]

theorem step_wr8_addr {X : Buf} {o : Nat} {s : State} {b : Byte} {rest : List Input} (hb : s.regs.status.busy = false)
    (hX : writableBuf X = true) (ho : o < X.size)
    (hin : s.inputs = hostInput (.wr8 (Buf.addr X o) (b.setWidth 32)) :: rest) :
    step s = .next (memWrite X o [b] { s with inputs := rest, hostData := none }) :=
  (step_hostInput rfl hin).trans (congrArg Host.Outcome.next (wr8_addr b hb hX ho))

/-- Storing one byte and then the rest stores them all. -/
theorem memWrite_cons (X : Buf) (o : Nat) (b : Byte) (bs : List Byte) (s : State) :
    memWrite X (o + 1) bs (memWrite X o [b] s) = memWrite X o (b :: bs) s := rfl

/-- R83, R94: `wrbytes` is one `MemWrite` of all its bytes. -/
theorem run_wrbytes {X : Buf} (hX : writableBuf X = true) (bs : List Byte) {o : Nat} {s : State} {later : List Input}
    (hb : s.regs.status.busy = false) (hfit : o + bs.length ≤ X.size)
    (hin : s.inputs = (Pseudo.wrbytes X o bs).expand.map hostInput ++ later) :
    Host.Core.run Sys2Proof.core bs.length s =
      .next (memWrite X o bs { s with inputs := later, hostData := if bs = [] then s.hostData else none }) := by
  induction bs generalizing o s with
  | nil =>
    have hlater : s.inputs = later := hin
    subst hlater
    rfl
  | cons b bs ih =>
    rw [expand_wrbytes_cons] at hin
    rw [List.length_cons] at hfit
    have hfirst := run_succ_of_step (M := Sys2Proof.core) (step_wr8_addr hb hX (by omega) hin) bs.length
    have hrest := ih (o := o + 1) (s := memWrite X o [b] { s with inputs := _, hostData := none }) hb (by omega) rfl
    refine hfirst.trans (hrest.trans ?_)
    rw [← memWrite_cons, if_neg (List.cons_ne_nil b bs)]
    simp only [memWrite_hostData, ite_self]
    rfl

/-! ### waitidle -/

theorem waitidleReads_append {before : List Word} {last : Word} (hbefore : ∀ v ∈ before, pollAgain v = true)
    (hlast : pollAgain last = false) : waitidleReads (before ++ [last]) = true := by
  induction before with
  | nil => rw [List.nil_append, waitidleReads_cons, hlast]; rfl
  | cons v before ih =>
    obtain ⟨hv, hrest⟩ := List.forall_mem_cons.mp hbefore
    rw [List.cons_append, waitidleReads_cons, if_pos hv]
    exact ih hrest

theorem exists_append_of_waitidleReads {vs : List Word} (h : waitidleReads vs = true) :
    ∃ before last, vs = before ++ [last] ∧ (∀ v ∈ before, pollAgain v = true) ∧ pollAgain last = false := by
  induction vs with
  | nil => cases h
  | cons v vs ih =>
    rw [waitidleReads_cons] at h
    split at h
    next hv =>
      obtain ⟨before, last, rfl, hbefore, hlast⟩ := ih h
      exact ⟨v :: before, last, rfl, List.forall_mem_cons.mpr ⟨hv, hbefore⟩, hlast⟩
    next hv =>
      rw [List.isEmpty_iff.mp h]
      exact ⟨[], v, rfl, fun _ hmem => (List.not_mem_nil hmem).elim, eq_false_of_ne_true hv⟩

/-- The reads of one `waitidle` are values with BUSY = 1 and then one with BUSY = 0. -/
theorem waitidleReads_iff (vs : List Word) :
    waitidleReads vs = true ↔
      ∃ before last, vs = before ++ [last] ∧ (∀ v ∈ before, pollAgain v = true) ∧ pollAgain last = false :=
  ⟨exists_append_of_waitidleReads, fun ⟨_, _, hvs, hbefore, hlast⟩ => hvs ▸ waitidleReads_append hbefore hlast⟩

theorem step_poll {s : State} {rest : List Input} (hin : s.inputs = hostInput (.rd32 Reg.status.addr 0) :: rest) :
    step s = .next (respond s.regs.status.word { s with inputs := rest }) :=
  (step_hostInput rfl hin).trans (exec_poll _)

/-! ### A script answered Ok between two polls -/

theorem step_answer {s : State} {r : Answer} {rest : List Input} {e : Event} {es : List Event} {opened aborting : Bool}
    (hq : s.seqr = .run (e :: es) opened aborting) (hin : s.inputs = .answer r :: rest) :
    step s = .next (answered e es opened aborting r { s with inputs := rest }) := by
  simp only [step, takeInput_cons hin]
  exact sinkAnswer_run hq

theorem sinkOpenAfterOk_inputs (e : Event) (s : State) : (sinkOpenAfterOk e s).inputs = s.inputs := by
  cases e <;> rfl

theorem answered_ok_inputs (e : Event) (rest : List Event) (opened : Bool) (s : State) :
    (answered e rest opened false .ok s).inputs = s.inputs := by
  have hkept : (sinkOpenAfterOk e (recordAnswer e .ok s)).inputs = s.inputs := by
    rw [sinkOpenAfterOk_inputs, recordAnswer_inputs]
  cases rest with
  | nil => exact hkept
  | cons e' rest' => exact hkept

/-- R174: a script whose every event is answered Ok ends, with BUSY = 0 and SEQR Idle. -/
theorem run_script_ok {script : List Event} (hne : script ≠ []) {opened : Bool} {s : State} {later : List Input}
    (hq : s.seqr = .run script opened false) (hin : s.inputs = List.replicate script.length (.answer .ok) ++ later) :
    ∃ t, Host.Core.run Sys2Proof.core script.length s = .next t ∧ t.seqr = .idle ∧ t.regs.status.busy = false ∧
      t.inputs = later := by
  induction script generalizing opened s with
  | nil => exact absurd rfl hne
  | cons e rest ih =>
    have hfirst := run_succ_of_step (M := Sys2Proof.core) (step_answer hq hin) rest.length
    have hinputs := answered_ok_inputs e rest opened { s with inputs := List.replicate rest.length (.answer .ok) ++ later }
    cases rest with
    | nil => exact ⟨_, hfirst, rfl, rfl, hinputs⟩
    | cons e' rest' =>
      obtain ⟨t, hrun, ht⟩ := ih (List.cons_ne_nil e' rest') rfl hinputs
      exact ⟨t, hfirst.trans hrun, ht⟩

/-- R83: `waitidle` around a script answered Ok. -/
theorem run_polls_around_script {script : List Event} (hne : script ≠ []) {opened : Bool} {s : State} {poll : Input}
    {later : List Input} (hpoll : hostInput (.rd32 Reg.status.addr 0) = poll) (hq : s.seqr = .run script opened false)
    (hin : s.inputs = poll :: (List.replicate script.length (.answer .ok) ++ poll :: later)) :
    Host.Core.run Sys2Proof.core 1 s = .next (respond s.regs.status.word
        { s with inputs := List.replicate script.length (.answer .ok) ++ poll :: later }) ∧
    ∃ u, Host.Core.run Sys2Proof.core (script.length + 2) s = .next u ∧ u.seqr = .idle ∧ u.inputs = later ∧
      ∃ w : Word, u.hostData = some w ∧ pollAgain w = false := by
  subst hpoll
  have hfirst := run_succ_of_step (M := Sys2Proof.core) (step_poll hin)
  refine ⟨hfirst 0, ?_⟩
  obtain ⟨t, hrun, hidle, hbusy, hinputs⟩ := run_script_ok hne (later := hostInput (.rd32 Reg.status.addr 0) :: later)
    (s := respond s.regs.status.word { s with inputs := _ }) hq rfl
  have hlast := run_succ_of_step (M := Sys2Proof.core) (step_poll hinputs) 0
  exact ⟨_, (hfirst _).trans ((run_add_of_run hrun 1).trans hlast), hidle, rfl, _, rfl, by rw [pollAgain_word, hbusy]⟩

/-- Settles O19: `wrbytes` is one `MemWrite`, `waitidle` tests BUSY, and a script answered Ok ends between its two polls. -/
theorem wrbytesStoresAndWaitidlePolls : Obligations.WrbytesStoresAndWaitidlePolls := by
  refine ⟨?_, ?_, waitidleReads_iff, ?_, ?_⟩
  · intro s X o bs later hwf hb hX hfit hin
    exact ⟨_, run_wrbytes hX bs hb hfit hin, rfl, BytesStored_memWrite X o bs _ hwf⟩
  · intro busyReads
    simp [Pseudo.expand, show Reg.status.addr = 0x04 from rfl]
  · exact fun s => ⟨_, exec_poll s, pollAgain_word _⟩
  · intro s script opened poll later hpoll hq hne hbusy hin
    obtain ⟨hfirst, u, hrun, hidle, hinputs, w, hw, hlow⟩ :=
      run_polls_around_script hne (List.cons.inj hpoll).1 hq hin
    refine ⟨_, u, _, w, hfirst, rfl, hrun, hw, ?_, hidle, hinputs⟩
    simp [waitidleReads_cons, hbusy, hlow]

/-! ### Ignored DATA bits -/

/-- R94: WR8 uses D[7:0] only. -/
theorem wr8_congr_data (a : Word) {d d' : Word} (h : d.extractLsb' 0 8 = d'.extractLsb' 0 8) (s : State) :
    wr8 a d s = wr8 a d' s := by
  unfold wr8
  rw [h]

/-- Settles O23: a read's meaning does not take its DATA, and WR8 takes the low byte, which is DATA modulo 256. -/
theorem ignoredDataBitsChangeNothing : Obligations.IgnoredDataBitsChangeNothing := by
  intro s a d d'
  refine ⟨rfl, rfl, fun hmod => congrArg Host.Outcome.next (wr8_congr_data a ?_ s)⟩
  exact BitVec.eq_of_toNat_eq (by simpa using hmod)

end Sys2Proof.Machine
end

section
/-! Which addresses name a register, and which the host may write (spec/10_state.md R23, spec/20_memory.md R51,
spec/40_host_access.md R90, R92, R94). -/

namespace Sys2Proof.Machine

/-! ### Registers -/

theorem regAt_addr (r : Reg) : regAt r.addr = some r := by cases r <;> rfl

theorem regAt_eq_none_iff_not_mem (a : Word) : regAt a = none ↔ a.toNat ∉ regMap.map Prod.fst := by
  simp only [regAt, List.lookup_eq_none_iff, bne_iff_ne, List.mem_map, not_exists, not_and]
  exact forall₂_congr fun _ _ => ne_comm

theorem regMap_offsets : regMap.map Prod.fst = (List.range 20).map (4 * ·) := by decide

/-- R23: the register map is the twenty aligned offsets from 0x00 to 0x4C. -/
theorem regAt_eq_none_iff (a : Word) : regAt a = none ↔ ¬(a.toNat % 4 = 0 ∧ a.toNat ≤ 0x4C) := by
  rw [regAt_eq_none_iff_not_mem, regMap_offsets, not_iff_not, List.mem_map]
  constructor
  · rintro ⟨k, hk, hka⟩
    rw [List.mem_range] at hk
    omega
  · rintro ⟨halign, hle⟩
    exact ⟨a.toNat / 4, List.mem_range.mpr (by omega), by omega⟩

/-- An offset of the register map other than those of PKT_LEN and PROGRESS (spec/40_host_access.md R92). -/
abbrev WritableOffset (a : Word) : Prop := a.toNat % 4 = 0 ∧ a.toNat < 0x4C ∧ a.toNat ≠ 0x44

theorem writableReg_iff_offset (r : Reg) : writableReg r = true ↔ WritableOffset r.addr := by
  cases r <;> decide

theorem exists_reg_of_writableOffset {a : Word} (h : WritableOffset a) : ∃ r, a = r.addr ∧ writableReg r = true := by
  cases hr : regAt a with
  | none =>
    have hout := (regAt_eq_none_iff a).mp hr
    omega
  | some r =>
    obtain rfl := regAt_eq_some hr
    exact ⟨r, rfl, (writableReg_iff_offset r).mpr h⟩

/-! ### Buffers -/

/-- An address of MSG, SRC_TEXT or TX_TEXT (spec/40_host_access.md R94). -/
abbrev WritableByte (a : Word) : Prop :=
  (0x00010000 ≤ a.toNat ∧ a.toNat ≤ 0x0001FFFE) ∨ (0x00030000 ≤ a.toNat ∧ a.toNat ≤ 0x0003001F)

/-- The three writable ranges; SRC_TEXT and TX_TEXT adjoin. -/
theorem writableByte_iff (a : Word) :
    WritableByte a ↔ Buf.msg.holds a.toNat = true ∨ Buf.srcText.holds a.toNat = true ∨ Buf.txText.holds a.toNat = true := by
  simp only [Buf_holds_iff, Buf.base, Buf.size, Config.msgCap, Config.textCap]
  omega

theorem writableByte_iff_bufAt (a : Word) : WritableByte a ↔ ∃ X o, bufAt a = some (X, o) ∧ writableBuf X = true := by
  rw [writableByte_iff]
  constructor
  · rintro (h | h | h)
    · exact ⟨.msg, _, bufAt_of_holds h, rfl⟩
    · exact ⟨.srcText, _, bufAt_of_holds h, rfl⟩
    · exact ⟨.txText, _, bufAt_of_holds h, rfl⟩
  · rintro ⟨X, o, hX, hw⟩
    obtain ⟨hholds, -⟩ := bufAt_eq_some hX
    cases X with
    | msg => exact .inl hholds
    | srcText => exact .inr (.inl hholds)
    | txText => exact .inr (.inr hholds)
    | cksum => cases hw
    | pkt => cases hw

end Sys2Proof.Machine
end

section
/-! The four host transactions by their address (spec/40_host_access.md R91 to R94), W1C (R97) and writes while BUSY (R98). -/

namespace Sys2Proof.Machine

/-! ### The word STATUS reads as -/

/-- Fields that do not overlap add up. -/
theorem toNat_or_shiftLeft {x y : Word} {m n k : Nat} (hx : x.toNat = m) (hy : y.toNat = n) (hm : m < 2 ^ k)
    (hn : 2 ^ k * n < 2 ^ 32) : (x ||| y <<< k).toNat = m + 2 ^ k * n := by
  rw [BitVec.toNat_or, BitVec.toNat_shiftLeft, hx, hy, Nat.shiftLeft_eq, Nat.mul_comm, Nat.mod_eq_of_lt hn, Nat.or_comm,
    ← Nat.two_pow_add_eq_or_of_lt hm, Nat.add_comm]

theorem flagWord_toNat (b : Bool) : (flagWord b).toNat = b.toNat := by cases b <;> rfl

/-- R25: the six fields of STATUS stand at bits 0, 1, 4, 8, 9 and 10. -/
theorem Status_word_toNat (st : Status) :
    st.word.toNat = st.busy.toNat + 2 * st.done.toNat + 16 * st.err.toNat + 256 * st.wviol.toNat +
      512 * st.aerr.toNat + 1024 * st.sinkOpen.toNat := by
  have hbusy := Bool.toNat_le st.busy
  have hdone := Bool.toNat_le st.done
  have herr := st.err.isLt
  have hwviol := Bool.toNat_le st.wviol
  have haerr := Bool.toNat_le st.aerr
  have hsink := Bool.toNat_le st.sinkOpen
  have herrWord : (st.err.setWidth 32).toNat = st.err.toNat := BitVec.toNat_setWidth_of_le (by decide)
  have toDone := toNat_or_shiftLeft (k := 1) (flagWord_toNat st.busy) (flagWord_toNat st.done) (by omega) (by omega)
  have toErr := toNat_or_shiftLeft (k := 4) toDone herrWord (by omega) (by omega)
  have toWviol := toNat_or_shiftLeft (k := 8) toErr (flagWord_toNat st.wviol) (by omega) (by omega)
  have toAerr := toNat_or_shiftLeft (k := 9) toWviol (flagWord_toNat st.aerr) (by omega) (by omega)
  exact toNat_or_shiftLeft (k := 10) toAerr (flagWord_toNat st.sinkOpen) (by omega) (by omega)

/-! ### Reads -/

theorem rd32_addr (r : Reg) (s : State) : rd32 r.addr s = respond (s.regs.get r) s := by
  rw [rd32, regAt_addr]

theorem rd32_of_regAt_none {a : Word} (h : regAt a = none) (s : State) : rd32 a s = refuseRead s := by
  rw [rd32, h]

/-- Settles O14: each row is a register at its offset with its value; the STATUS word is its fields' sum. -/
theorem rd32ReturnsTheRegister : Obligations.Rd32ReturnsTheRegister := by
  refine ⟨decodeHbt_rd32, fun s d => ⟨?_, ?_, fun a ha => ?_⟩⟩
  · show ∀ row ∈ ((regMap.map Prod.snd).filter (· != .status)).map fun r => (r.addr, s.regs.get r), _
    rw [List.forall_mem_map]
    exact fun r _ => congrArg Host.Outcome.next (rd32_addr r s)
  · exact ⟨s.regs.status.word, congrArg Host.Outcome.next (rd32_addr .status s), Status_word_toNat s.regs.status⟩
  · exact congrArg Host.Outcome.next (rd32_of_regAt_none ((regAt_eq_none_iff a).mpr ha) s)

/-- R93: the byte RD8 returns is the one at the address. -/
theorem rd8_of_bufAt_ne_none {a : Word} (h : bufAt a ≠ none) (s : State) :
    rd8 a s = respond ((s.readByte a.toNat).setWidth 32) s := by
  rcases rd8_cases a s with ⟨hnone, -⟩ | ⟨X, o, hsome, hrd⟩
  · exact absurd hnone h
  · obtain ⟨-, -, haddr⟩ := bufAt_eq_some hsome
    rw [hrd, haddr]

theorem rd8_of_bufAt_none {a : Word} (h : bufAt a = none) (s : State) : rd8 a s = refuseRead s := by
  rw [rd8, h]

/-- Settles O17: by whether the address is one of a buffer. -/
theorem rd8ReturnsTheByte : Obligations.Rd8ReturnsTheByte :=
  ⟨decodeHbt_rd8, fun s _ _ => ⟨fun h => congrArg Host.Outcome.next (rd8_of_bufAt_ne_none h s),
    fun h => congrArg Host.Outcome.next (rd8_of_bufAt_none h s)⟩⟩

/-! ### WR32 -/

theorem wr32_of_not_writable {a : Word} (h : ¬WritableOffset a) (d : Word) (s : State) :
    wr32 a d s = refuseWrite s := by
  unfold wr32
  cases hr : regAt a with
  | none => rfl
  | some r =>
    obtain rfl := regAt_eq_some hr
    have hw : writableReg r = false :=
      eq_false_of_ne_true fun hr => h ((writableReg_iff_offset r).mp hr)
    simp [hw]

theorem wr32_of_busy {a : Word} (h : WritableOffset a) {s : State} (hb : s.regs.status.busy = true) (d : Word) :
    wr32 a d s = discardWrite s := by
  obtain ⟨r, rfl, hr⟩ := exists_reg_of_writableOffset h
  simp [wr32, regAt_addr, hr, hb]

theorem wr32_addr {r : Reg} (hr : writableReg r = true) {s : State} (hb : s.regs.status.busy = false) (d : Word) :
    wr32 r.addr d s = writeReg r d (noResponse s) := by
  simp [wr32, regAt_addr, hr, hb]

/-- The registers a WR32 stores whole: every writable one but CMD and STATUS. -/
def storedWhole (r : Reg) : Bool := writableReg r && r != .cmd && r != .status

theorem writeReg_of_storedWhole {r : Reg} (h : storedWhole r = true) (d : Word) (s : State) :
    writeReg r d s = setReg r d s := by
  cases r with
  | cmd => cases h
  | status => cases h
  | _ => rfl

theorem wr32_of_storedWhole {r : Reg} (h : storedWhole r = true) {s : State} (hb : s.regs.status.busy = false)
    (d : Word) : wr32 r.addr d s = setReg r d (noResponse s) := by
  have hr : writableReg r = true := by simp_all [storedWhole]
  rw [wr32_addr hr hb, writeReg_of_storedWhole h]

/-- Settles O15: by whether the address is a writable offset, then by BUSY, then by the register at it. -/
theorem wr32StoresTheWord : Obligations.Wr32StoresTheWord := by
  refine ⟨decodeHbt_wr32, fun s d => ⟨fun a ha => ?_, fun a halign hlt hne hb => ?_, fun hb => ⟨?_, ?_, ?_⟩⟩⟩
  · exact congrArg Host.Outcome.next (wr32_of_not_writable ha d s)
  · exact congrArg Host.Outcome.next (wr32_of_busy ⟨halign, hlt, hne⟩ hb d)
  · exact exec_wr32_cmd d hb
  · exact congrArg Host.Outcome.next (wr32_addr (r := .status) rfl hb d)
  · show ∀ row ∈ ((regMap.map Prod.snd).filter storedWhole).map fun r => (r.addr, s.regs.set r d), _
    rw [List.forall_mem_map]
    exact fun r hr => congrArg Host.Outcome.next (wr32_of_storedWhole (List.mem_filter.mp hr).2 hb d)

/-- Settles O16: a 1 in a marked bit is the `if`'s first branch, a 0 its second. -/
theorem statusWriteClearsTheMarkedBits : Obligations.StatusWriteClearsTheMarkedBits := by
  intro s d hb
  have hclear (b m : Bool) : (b && !m) = if m = true then false else b := by cases m <;> simp
  refine congrArg Host.Outcome.next ((wr32_addr (r := .status) rfl hb d).trans ?_)
  simp only [writeReg, clearStatus, setStatus_eq, Status.w1c, hclear]
  rfl

/-! ### WR8 -/

theorem wr8_of_not_writable {a : Word} (h : ¬WritableByte a) (d : Word) (s : State) : wr8 a d s = refuseWrite s := by
  unfold wr8
  cases hX : bufAt a with
  | none => rfl
  | some p =>
    obtain ⟨X, o⟩ := p
    have hw : writableBuf X = false := eq_false_of_ne_true fun hw => h ((writableByte_iff_bufAt a).mpr ⟨X, o, hX, hw⟩)
    simp [hw]

theorem wr8_of_busy {a : Word} (h : WritableByte a) {s : State} (hb : s.regs.status.busy = true) (d : Word) :
    wr8 a d s = discardWrite s := by
  obtain ⟨X, o, hX, hw⟩ := (writableByte_iff_bufAt a).mp h
  simp [wr8, hX, hw, hb]

theorem wr8_of_idle {a : Word} (h : WritableByte a) {s : State} (hb : s.regs.status.busy = false) (d : Word) :
    ∃ X o, X.base + o = a.toNat ∧ wr8 a d s = memWrite X o [BitVec.ofNat 8 d.toNat] (noResponse s) := by
  obtain ⟨X, o, hX, hw⟩ := (writableByte_iff_bufAt a).mp h
  obtain ⟨-, -, haddr⟩ := bufAt_eq_some hX
  have hbyte : d.extractLsb' 0 8 = BitVec.ofNat 8 d.toNat := BitVec.eq_of_toNat_eq (by simp)
  exact ⟨X, o, haddr, by simp [wr8, hX, hw, hb, hbyte]⟩

/-- Settles O18: by whether the address is one of a writable buffer, then by BUSY; the store is one `MemWrite`. -/
theorem wr8StoresTheLowByte : Obligations.Wr8StoresTheLowByte := by
  refine ⟨decodeHbt_wr8, fun s a d hwf => ⟨fun ha => ?_, fun ha => ⟨fun hb => ?_, fun hb => ?_⟩⟩⟩
  · exact congrArg Host.Outcome.next (wr8_of_not_writable ha d s)
  · exact congrArg Host.Outcome.next (wr8_of_busy ha hb d)
  · obtain ⟨X, o, haddr, hwr⟩ := wr8_of_idle ha hb d
    rw [← haddr]
    exact ⟨_, congrArg Host.Outcome.next hwr, rfl, BytesStored_memWrite X o _ (noResponse s) hwf⟩

/-! ### Writes while BUSY = 1 -/

theorem refuseWrite_of_busy {s : State} (hb : s.regs.status.busy = true) :
    refuseWrite s =
      { s with
        hostData := none
        regs := { s.regs with status := { s.regs.status with wviol := true, aerr := true } } } := by
  simp only [refuseWrite, Status.writeRefused, hb, Bool.or_true]
  rfl

/-- R98: a write that is refused exactly off the addresses of `P`, and else discarded, changes WVIOL, and AERR if refused. -/
theorem busyWrite_eq {s t : State} (hb : s.regs.status.busy = true) {P : Prop}
    (hrefused : ¬P → t = refuseWrite s) (hdiscarded : P → t = discardWrite s) :
    ∃ refused : Bool, (refused = true ↔ ¬P) ∧
      t = { s with
        hostData := none
        regs := { s.regs with
          status := { s.regs.status with wviol := true, aerr := s.regs.status.aerr || refused } } } := by
  by_cases hP : P
  · refine ⟨false, by simp [hP], ?_⟩
    rw [hdiscarded hP, Bool.or_false]
    rfl
  · refine ⟨true, by simp [hP], ?_⟩
    rw [hrefused hP, refuseWrite_of_busy hb, Bool.or_true]

/-- Settles O20: with BUSY = 1 the only two outcomes of a write are refused and discarded, told apart by its address. -/
theorem busyWritesAreDiscarded : Obligations.BusyWritesAreDiscarded := by
  intro s a d hb
  obtain ⟨r32, hr32, h32⟩ := busyWrite_eq hb (fun h => wr32_of_not_writable h d s) fun h => wr32_of_busy h hb d
  obtain ⟨r8, hr8, h8⟩ := busyWrite_eq hb (fun h => wr8_of_not_writable h d s) fun h => wr8_of_busy h hb d
  exact ⟨⟨r32, hr32, congrArg Host.Outcome.next h32⟩, ⟨r8, hr8, congrArg Host.Outcome.next h8⟩⟩

end Sys2Proof.Machine
end

section
/-! What no instruction touches: the sinks' traces and the environment's inputs (spec/40_host_access.md R101, R102). -/

namespace Sys2Proof.Machine

theorem instr_command_or_transaction (i : Instr) : (∃ c : Cmd, c.toInstr = i) ∨ ∃ x, decodeHbt x = i := by
  have hdec := everyInstructionDecodesBack i
  cases henc : encode i with
  | cmdw w =>
    rw [henc] at hdec
    obtain ⟨c, -, hc⟩ := decode_cmdw_eq_ok hdec
    exact .inl ⟨c, hc⟩
  | hbt x =>
    rw [henc] at hdec
    exact .inr ⟨x, Except.ok.inj hdec⟩

theorem runCommand_keeps_surroundings (c : Cmd) (s : State) : SameSurroundings s (runCommand c s) := by
  rcases runCommand_cases c s with ⟨e, h⟩ | ⟨-, h⟩ | ⟨sel, v, -, h⟩ | ⟨-, -, -, h⟩ | ⟨-, h⟩ | ⟨-, h⟩ |
    ⟨-, -, -, h⟩ | ⟨-, -, -, -, h⟩ <;> simp [h, SameSurroundings]

theorem accept_keeps_surroundings (w : Word) (s : State) : SameSurroundings s (accept w s) := by
  rcases accept_cases w s with ⟨e, -, h⟩ | ⟨c, -, h⟩
  · rw [h]; exact ⟨rfl, rfl, rfl, rfl⟩
  · rw [h]; exact runCommand_keeps_surroundings c (beginCommand w s)

theorem HostEffect.keeps_surroundings {s t : State} {i : Instr} (h : HostEffect s i t) : SameSurroundings s t := by
  cases h with
  | accepted w => exact accept_keeps_surroundings w (noResponse s)
  | readRefused | readAnswered | writeRefused | writeDiscarded | statusCleared | registerStored | byteStored =>
    exact ⟨rfl, rfl, rfl, rfl⟩

/-- R102: no instruction reaches a sink or the environment. -/
theorem exec_keeps_surroundings {i : Instr} {s t : State} (ht : exec i s = .next t) : SameSurroundings s t := by
  rcases instr_command_or_transaction i with ⟨c, rfl⟩ | ⟨x, hx⟩
  · rw [exec_command] at ht
    obtain rfl := Host.Outcome.next.inj ht
    exact runCommand_keeps_surroundings c s
  · exact (exec_decodeHbt_effect hx ht).keeps_surroundings

/-- Settles O22: of the four kinds of step, waiting and a transaction keep both traces, and the reset input empties them. -/
theorem onlyAnswersProduceSinkEvents : Obligations.OnlyAnswersProduceSinkEvents := by
  refine ⟨fun i s t ht => ?_, fun s t ht hreset hchanged => ?_, fun s t rest hin ht => ?_⟩
  · obtain ⟨haudio, hfile, -, -⟩ := exec_keeps_surroundings ht
    exact ⟨haudio, hfile⟩
  · rcases step_next_cases ht with ⟨-, rfl⟩ | ⟨w, rest, -, hexec⟩ | ⟨r, rest, hin, -⟩ | ⟨rest, hin, -⟩
    · simp at hchanged
    · obtain ⟨haudio, hfile, -, -⟩ := exec_keeps_surroundings hexec
      exact absurd hchanged (by simp [haudio, hfile])
    · exact ⟨r, rest, hin⟩
    · exact absurd hin (hreset rest)
  · simp only [step, takeInput_cons hin] at ht
    obtain rfl := Host.Outcome.next.inj ht
    exact ⟨rfl, rfl⟩

/-- Settles O12: the step is the transaction's meaning, and every meaning answers a next state. -/
theorem hostTransactionIsAlwaysEnabled : Obligations.HostTransactionIsAlwaysEnabled := by
  intro s t rest hin
  rw [step_bus hin]
  exact exec_next _ _

end Sys2Proof.Machine
end

section
/-! The checksum unit's functions (spec/41_checksum.md R107, R108): the padding is least and fills whole blocks, and the
hex form reads back. -/

namespace Sys2Proof.Machine

/-! ### Padding -/

theorem md5PadZeros_reaches_56 (n : Nat) : (n + 1 + md5PadZeros n) % 64 = 56 := by
  unfold md5PadZeros
  omega

theorem md5PadZeros_least {n k : Nat} (h : k < md5PadZeros n) : (n + 1 + k) % 64 ≠ 56 := by
  unfold md5PadZeros at h
  omega

/-- R107: byte `j` of the little-endian form is digit `j` in base 256. -/
theorem leBytes_getD_toNat {n j : Nat} (h : j < n) (v : Nat) :
    ((leBytes n v).getD j 0).toNat = v / 256 ^ j % 256 := by
  have hshift : v >>> (8 * j) = v / 256 ^ j := by rw [Nat.shiftRight_eq_div_pow, Nat.pow_mul]
  simp [leBytes, h, hshift]

theorem md5Pad_length (m : List Byte) : (md5Pad m).length = m.length + 1 + md5PadZeros m.length + 8 := by
  simp only [md5Pad, List.length_append, List.length_singleton, List.length_replicate, leBytes_length]

/-- Settles O25: the zero fill is `md5PadZeros`, the length field `leBytes`; 56 and the field's 8 bytes fill the block. -/
theorem paddingFillsWholeBlocks : Obligations.PaddingFillsWholeBlocks := by
  intro m
  have hfill := md5PadZeros_reaches_56 m.length
  have hblocks : (md5Pad m).length % 64 = 0 := by rw [md5Pad_length]; omega
  exact ⟨hblocks, md5PadZeros m.length, hfill, fun _ => md5PadZeros_least, leBytes 8 (8 * m.length), leBytes_length 8 _,
    fun _ hj => leBytes_getD_toNat hj _, rfl⟩

/-! ### The hex form -/

/-- R108: `hx(v)` is '0' to '9', then 'a' to 'f'. -/
theorem hexDigit_toNat {v : Nat} (h : v < 16) :
    (hexDigit v).toNat = if v ≤ 9 then 0x30 + v else 0x61 + (v - 10) := by
  unfold hexDigit
  split
  · rw [BitVec.toNat_ofNat]; omega
  · rw [BitVec.toNat_ofNat]; omega

theorem hexDigit_injective {v w : Nat} (hv : v < 16) (hw : w < 16) (h : hexDigit v = hexDigit w) : v = w := by
  have hnat := congrArg BitVec.toNat h
  rw [hexDigit_toNat hv, hexDigit_toNat hw] at hnat
  split_ifs at hnat <;> omega

theorem hexlower_cons (b : Byte) (d : List Byte) :
    hexlower (b :: d) = hexDigit (b.toNat / 16) :: hexDigit (b.toNat % 16) :: hexlower d := rfl

theorem byte_high_nibble_lt (b : Byte) : b.toNat / 16 < 16 := by
  have := b.isLt
  omega

theorem byte_low_nibble_lt (b : Byte) : b.toNat % 16 < 16 := Nat.mod_lt _ (by decide)

/-- R108: the two digits of byte `i` stand at 2 i and 2 i + 1, the high nibble first. -/
theorem hexlower_getD {d : List Byte} {i : Nat} (h : i < d.length) :
    (hexlower d).getD (2 * i) 0 = hexDigit ((d.getD i 0).toNat / 16) ∧
    (hexlower d).getD (2 * i + 1) 0 = hexDigit ((d.getD i 0).toNat % 16) := by
  induction d generalizing i with
  | nil => cases h
  | cons b d ih =>
    cases i with
    | zero => exact ⟨rfl, rfl⟩
    | succ i => exact ih (Nat.lt_of_succ_lt_succ h)

theorem hexlower_injective {d d' : List Byte} (h : hexlower d = hexlower d') : d = d' := by
  induction d generalizing d' with
  | nil =>
    cases d' with
    | nil => rfl
    | cons b' d' => cases h
  | cons b d ih =>
    cases d' with
    | nil => cases h
    | cons b' d' =>
      rw [hexlower_cons, hexlower_cons, List.cons.injEq, List.cons.injEq] at h
      obtain ⟨hhigh, hlow, hrest⟩ := h
      have hhigh := hexDigit_injective (byte_high_nibble_lt b) (byte_high_nibble_lt b') hhigh
      have hlow := hexDigit_injective (byte_low_nibble_lt b) (byte_low_nibble_lt b') hlow
      have hbyte : b = b' := BitVec.eq_of_toNat_eq (by omega)
      rw [hbyte, ih hrest]

/-- Settles O26: the digits of a byte are `hx` of its two nibbles, and `hx` is injective on nibbles. -/
theorem hexDigitsDecodeToTheDigest : Obligations.HexDigitsDecodeToTheDigest := by
  refine ⟨hexlower_length, fun d i hi => ?_, fun _ _ => hexlower_injective⟩
  have hhigh := byte_high_nibble_lt (d.getD i 0)
  have hlow := byte_low_nibble_lt (d.getD i 0)
  obtain ⟨hevens, hodds⟩ := hexlower_getD hi
  exact ⟨_, _, hhigh, hlow, (Nat.div_add_mod _ 16).symm, hevens ▸ hexDigit_toNat hhigh, hodds ▸ hexDigit_toNat hlow⟩

end Sys2Proof.Machine
end

section
/-! The commands that store the checksum of the message: DIGEST, SEND and SAVE (spec/41_checksum.md R105, R114). -/

namespace Sys2Proof.Machine

theorem storeChecksum_bytesStored {s : State} (h : Memory.wf s.mem = true) :
    BytesStored s (storeChecksum s) Buf.cksum.base (checksumText s.message) := by
  rw [storeChecksum_eq]
  exact BytesStored_memWrite .cksum 0 _ s h

/-- `BytesStored` speaks of what the state after reads as, so of its memory and draws only. -/
theorem BytesStored.of_eq {s t u : State} {base : Nat} {v : List Byte} (h : BytesStored s t base v)
    (hmem : u.mem = t.mem) (hdraw : u.drawEpoch = t.drawEpoch) : BytesStored s u base v :=
  fun a => (readByte_congr t u hmem hdraw a).trans (h a)

theorem ErrCode_code_ne_zero {e : ErrCode} (h : e ≠ .ok) : e.code ≠ 0 := by
  cases e with
  | ok => exact absurd rfl h
  | _ => decide

/-! ### The checksum is a property of the message -/

theorem message_congr {s u : State} (hlen : u.regs.msgLen = s.regs.msgLen)
    (hbytes : ∀ a, Buf.msg.base ≤ a → a < Buf.msg.base + s.msgLength → u.readByte a = s.readByte a) :
    u.message = s.message := by
  unfold State.message
  rw [State.msgLength, hlen]
  exact memRead_congr .msg 0 s.msgLength s u fun i hi => hbytes _ (by omega) (by omega)

/-- The state after one of the three commands: an error and nothing else, or CKSUM stored. -/
inductive ChecksumEffect (s : State) : State → Prop
  | failed {e : ErrCode} (he : e ≠ .ok) : ChecksumEffect s (finish e s)
  | finished : ChecksumEffect s (finish .ok (storeChecksum s))
  | started (script : List Event) : ChecksumEffect s (start script (storeChecksum s))

theorem digest_effect (s : State) : ChecksumEffect s (digest s) := by
  unfold digest
  split
  · exact .failed (by decide)
  · exact .finished

theorem send_effect (s : State) : ChecksumEffect s (send s) := by
  unfold send
  split_ifs
  · exact .failed (by decide)
  · exact .failed (by decide)
  · exact .started _

theorem save_effect (s : State) : ChecksumEffect s (save s) := by
  unfold save
  split_ifs
  · exact .failed (by decide)
  · exact .failed (by decide)
  · exact .failed (by decide)
  · exact .started _

theorem exec_checksumEffect {i : Instr} {s t : State} (hi : i ∈ [Instr.digest, .send, .save])
    (ht : exec i s = .next t) : ChecksumEffect s t := by
  simp only [List.mem_cons, List.not_mem_nil, or_false] at hi
  rcases hi with rfl | rfl | rfl <;> obtain rfl := Host.Outcome.next.inj ht
  · exact digest_effect s
  · exact send_effect s
  · exact save_effect s

theorem ChecksumEffect.bytesStored {s t : State} (h : ChecksumEffect s t) (hwf : Memory.wf s.mem = true)
    (herr : t.regs.status.err = 0) : BytesStored s t Buf.cksum.base (checksumText s.message) := by
  have hstored := storeChecksum_bytesStored hwf
  cases h with
  | failed he => exact absurd herr (ErrCode_code_ne_zero he)
  | finished => exact hstored.of_eq (finish_mem _ _) (finish_drawEpoch _ _)
  | started script => exact hstored.of_eq (start_mem _ _) (start_drawEpoch _ _)

/-- Settles O27: what each command leaves in CKSUM is the checksum of its state's message. -/
theorem checksumDependsOnTheMessageOnly : Obligations.ChecksumDependsOnTheMessageOnly := by
  intro i i' s s' t t' hi hi' hwf hwf' hlen hbytes ht ht' _ _ herr herr' a hlo hhi
  have hmsg : s'.message = s.message := message_congr hlen hbytes
  have hread := (exec_checksumEffect hi ht).bytesStored hwf herr a
  have hread' := (exec_checksumEffect hi' ht').bytesStored hwf' herr' a
  have hin : Buf.cksum.base ≤ a ∧ a < Buf.cksum.base + (checksumText s.message).length := by
    rw [checksumText_length]
    exact ⟨hlo, hhi⟩
  rw [hread, hread', hmsg, if_pos hin, if_pos hin]

/-! ### DIGEST -/

theorem digest_of_lengthExceeded {s : State} (h : s.lengthExceeded) : digest s = finish .lengthExceeded s := if_pos h

theorem digest_of_not_lengthExceeded {s : State} (h : ¬s.lengthExceeded) :
    digest s = finish .ok (storeChecksum s) := if_neg h

/-- A command that has written memory only and then ends has changed the memory, SEQR and STATUS. -/
theorem finish_of_mem_only {s u : State} (h : u = { s with mem := u.mem }) (e : ErrCode) :
    finish e u =
      { s with
        seqr := .idle
        mem := (finish e u).mem
        regs := { s.regs with status := { s.regs.status with err := e.code, done := true, busy := false } } } := by
  rw [h]
  rfl

set_option maxRecDepth 20000 in
/-- R105 (log 14): the checksum of the empty message. -/
theorem checksumText_empty :
    checksumText [] =
      [0x64, 0x34, 0x31, 0x64, 0x38, 0x63, 0x64, 0x39, 0x38, 0x66, 0x30, 0x30, 0x62, 0x32, 0x30, 0x34,
        0x65, 0x39, 0x38, 0x30, 0x30, 0x39, 0x39, 0x38, 0x65, 0x63, 0x66, 0x38, 0x34, 0x32, 0x37, 0x65] := by
  decide

set_option maxRecDepth 20000 in
/-- R105: the checksum of "hi". -/
theorem checksumText_hi :
    checksumText [0x68, 0x69] =
      [0x34, 0x39, 0x66, 0x36, 0x38, 0x61, 0x35, 0x63, 0x38, 0x34, 0x39, 0x33, 0x65, 0x63, 0x32, 0x63,
        0x30, 0x62, 0x66, 0x34, 0x38, 0x39, 0x38, 0x32, 0x31, 0x63, 0x32, 0x31, 0x66, 0x63, 0x33, 0x62] := by
  decide

/-- Settles O24: by whether the message is too long; the two written-out values are computed. -/
theorem digestStoresTheChecksum : Obligations.DigestStoresTheChecksum := by
  refine ⟨rfl, fun s hlong => ?_, fun s hwf hfits => ?_, checksumText_empty, checksumText_hi⟩
  · exact congrArg Host.Outcome.next (digest_of_lengthExceeded hlong)
  · have hdigest := digest_of_not_lengthExceeded (not_lt.mpr hfits)
    exact ⟨_, congrArg Host.Outcome.next hdigest, finish_of_mem_only (storeChecksum_mem_only s) .ok,
      (storeChecksum_bytesStored hwf).of_eq (finish_mem _ _) (finish_drawEpoch _ _)⟩

end Sys2Proof.Machine
end

section
/-! Address parsing (spec/42_address.md): the dotted-decimal grammar, the word of an address, and PARSE_ADDR. -/

namespace Sys2Proof.Machine

/-! ### The grammar -/

/-- The model's splitting is the library's, so the library's laws of `splitOn` and `intercalate` apply to it. -/
theorem splitDots_eq_splitOn (text : List Byte) : splitDots text = text.splitOn dot := by
  induction text with
  | nil => rfl
  | cons b bs ih =>
    have hne : splitDots bs ≠ [] := ih ▸ List.splitOnP_ne_nil _ _
    obtain ⟨part, parts, hparts⟩ := List.exists_cons_of_ne_nil hne
    rw [List.splitOn, List.splitOnP_cons_eq_if_modifyHead, ← List.splitOn, ← ih, splitDots, hparts]
    simp

/-- Splitting undoes joining with dots, for parts that hold no dot. -/
theorem splitDots_eq_iff {parts : List (List Byte)} (hne : parts ≠ []) (hdot : ∀ part ∈ parts, dot ∉ part)
    (text : List Byte) : splitDots text = parts ↔ text = [dot].intercalate parts := by
  rw [splitDots_eq_splitOn]
  constructor
  · rintro rfl
    exact (List.intercalate_splitOn dot).symm
  · rintro rfl
    exact List.splitOn_intercalate dot hdot hne

/-- R121's segment: 1 to 3 digits, and their decimal value, at most 255. -/
theorem parseSegment_eq_some_iff {ds : List Byte} {v : Nat} :
    parseSegment ds = some v ↔
      1 ≤ ds.length ∧ ds.length ≤ 3 ∧ (∀ b ∈ ds, 0x30 ≤ b.toNat ∧ b.toNat ≤ 0x39) ∧ v = decimalValue ds ∧ v ≤ 255 := by
  have hdigits : ds.all isDigit = true ↔ ∀ b ∈ ds, 0x30 ≤ b.toNat ∧ b.toNat ≤ 0x39 := by simp [isDigit]
  rw [parseSegment, Option.ite_none_right_eq_some, Option.some.injEq, hdigits]
  constructor
  · rintro ⟨⟨hmin, hmax, hds, hv⟩, rfl⟩
    exact ⟨hmin, hmax, hds, rfl, hv⟩
  · rintro ⟨hmin, hmax, hds, rfl, hv⟩
    exact ⟨⟨hmin, hmax, hds, hv⟩, rfl⟩

/-- The dot is no digit, so a segment holds none. -/
theorem dot_notMem_of_parseSegment {ds : List Byte} {v : Nat} (h : parseSegment ds = some v) : dot ∉ ds := by
  obtain ⟨-, -, hdigits, -, -⟩ := parseSegment_eq_some_iff.mp h
  exact fun hmem => absurd (hdigits dot hmem).1 (by decide)

theorem parseSegments_eq_some_iff {parts : List (List Byte)} {v1 v2 v3 v4 : Nat} :
    parseSegments parts = some (v1, v2, v3, v4) ↔
      ∃ d1 d2 d3 d4, parts = [d1, d2, d3, d4] ∧
        ∀ part ∈ [(d1, v1), (d2, v2), (d3, v3), (d4, v4)], parseSegment part.1 = some part.2 := by
  constructor
  · intro h
    unfold parseSegments at h
    split at h
    next d1 d2 d3 d4 =>
      split at h
      next h1 h2 h3 h4 =>
        cases h
        exact ⟨d1, d2, d3, d4, rfl, by simp [h1, h2, h3, h4]⟩
      next => cases h
    next => cases h
  · rintro ⟨d1, d2, d3, d4, rfl, h⟩
    simp only [List.forall_mem_cons] at h
    obtain ⟨h1, h2, h3, h4, -⟩ := h
    simp only [parseSegments, h1, h2, h3, h4]

/-- A legal text is four segments joined with dots. -/
theorem parseDotted_eq_some_iff {text : List Byte} {v1 v2 v3 v4 : Nat} :
    parseDotted text = some (v1, v2, v3, v4) ↔
      ∃ d1 d2 d3 d4, text = d1 ++ [dot] ++ d2 ++ [dot] ++ d3 ++ [dot] ++ d4 ∧
        ∀ part ∈ [(d1, v1), (d2, v2), (d3, v3), (d4, v4)], parseSegment part.1 = some part.2 := by
  rw [parseDotted, parseSegments_eq_some_iff]
  refine exists_congr fun d1 => exists_congr fun d2 => exists_congr fun d3 => exists_congr fun d4 =>
    and_congr_left fun hsegments => ?_
  have hdot : ∀ ds ∈ [d1, d2, d3, d4], dot ∉ ds :=
    List.forall_mem_map (P := (dot ∉ ·)).mpr fun part hpart => dot_notMem_of_parseSegment (hsegments part hpart)
  rw [splitDots_eq_iff (List.cons_ne_nil _ _) hdot]
  simp [List.intercalate]

/-- Settles O28: no segment holds a dot, so a text splits into four segments exactly if joining them with dots gives it. -/
theorem parseDottedAcceptsExactlyTheGrammar : Obligations.ParseDottedAcceptsExactlyTheGrammar := by
  intro text v1 v2 v3 v4
  simp only [parseDotted_eq_some_iff, parseSegment_eq_some_iff]
  rfl

/-! ### The address -/

/-- R121: the values of a legal text are at most 255. -/
theorem le_255_of_parseDotted {text : List Byte} {a b c d : Nat} (h : parseDotted text = some (a, b, c, d)) :
    a ≤ 255 ∧ b ≤ 255 ∧ c ≤ 255 ∧ d ≤ 255 := by
  obtain ⟨d1, d2, d3, d4, -, hsegments⟩ := parseDotted_eq_some_iff.mp h
  have hle : ∀ part ∈ [(d1, a), (d2, b), (d3, c), (d4, d)], part.2 ≤ 255 := fun part hpart => by
    obtain ⟨-, -, -, -, hv⟩ := parseSegment_eq_some_iff.mp (hsegments part hpart)
    exact hv
  simpa using hle

/-- R122: the four values are the bytes of the address, `a` the highest. -/
theorem addressWord_toNat {a b c d : Nat} (ha : a ≤ 255) (hb : b ≤ 255) (hc : c ≤ 255) (hd : d ≤ 255) :
    (addressWord (a, b, c, d)).toNat = a * 2 ^ 24 + b * 2 ^ 16 + c * 2 ^ 8 + d := by
  have hword {v : Nat} (hv : v ≤ 255) : (BitVec.ofNat 32 v).toNat = v :=
    (BitVec.toNat_ofNat v 32).trans (Nat.mod_eq_of_lt (by omega))
  have lowestFirst (w x y z : Word) : w ||| x ||| y ||| z = z ||| y ||| x ||| w := by ac_rfl
  have toC := toNat_or_shiftLeft (k := 8) (hword hd) (hword hc) (by omega) (by omega)
  have toB := toNat_or_shiftLeft (k := 16) toC (hword hb) (by omega) (by omega)
  have toA := toNat_or_shiftLeft (k := 24) toB (hword ha) (by omega) (by omega)
  rw [addressWord, lowestFirst, toA]
  omega

/-! ### PARSE_ADDR -/

theorem parseAddr_of_legal {sel : AddrSel} {s : State} {v : Nat × Nat × Nat × Nat} (hlen : s.textLength sel ≤ 16)
    (h : parseDotted (s.addrText sel) = some v) :
    parseAddr sel s = finish .ok (setReg (addrReg sel) (addressWord v) s) := by
  rw [parseAddr, if_neg (not_lt.mpr hlen), h]

theorem parseAddr_of_illegal {sel : AddrSel} {s : State}
    (h : 16 < s.textLength sel ∨ parseDotted (s.addrText sel) = none) :
    parseAddr sel s = finish .addressFormat s := by
  by_cases hlen : 16 < s.textLength sel
  · exact if_pos hlen
  · rw [parseAddr, if_neg hlen, h.resolve_left hlen]

/-- R120: PARSE_ADDR on a legal text puts the address it spells into the target. -/
theorem exec_parseAddr_of_legal {sel : AddrSel} {s : State} {a b c d : Nat} (hlen : s.textLength sel ≤ 16)
    (h : parseDotted (s.addrText sel) = some (a, b, c, d)) :
    ∃ w : Word, w.toNat = a * 2 ^ 24 + b * 2 ^ 16 + c * 2 ^ 8 + d ∧
      exec (.parseAddr sel) s = .next (finish .ok (setReg (addrReg sel) w s)) := by
  obtain ⟨ha, hb, hc, hd⟩ := le_255_of_parseDotted h
  exact ⟨_, addressWord_toNat ha hb hc hd, congrArg Host.Outcome.next (parseAddr_of_legal hlen h)⟩

/-- R120, R123: PARSE_ADDR on any other text ends with ADDRESS_FORMAT. -/
theorem exec_parseAddr_of_illegal {sel : AddrSel} {s : State}
    (h : 16 < s.textLength sel ∨ parseDotted (s.addrText sel) = none) :
    exec (.parseAddr sel) s = .next (finish .addressFormat s) :=
  congrArg Host.Outcome.next (parseAddr_of_illegal h)

/-- Settles O29: PARSE_ADDR's two outcomes, at each SEL. -/
theorem parseAddrSetsTheAddress : Obligations.ParseAddrSetsTheAddress :=
  ⟨rfl, rfl, fun _ =>
    ⟨fun _ _ _ _ => exec_parseAddr_of_legal (sel := .src), exec_parseAddr_of_illegal (sel := .src),
      fun _ _ _ _ => exec_parseAddr_of_legal (sel := .tx), exec_parseAddr_of_illegal (sel := .tx)⟩⟩

end Sys2Proof.Machine
end

section
/-! Packets (spec/43_framer.md): where each field of a packet stands (R132), what BUILD_PACKET stores (R130), and what the
packets of `build_all` share (R140, R141). -/

namespace Sys2Proof.Machine

/-! ### Byte forms -/

theorem extractLsb'_byte_toNat (v : Word) (k : Nat) : (v.extractLsb' (8 * k) 8).toNat = v.toNat / 256 ^ k % 256 := by
  rw [BitVec.extractLsb'_toNat, Nat.shiftRight_eq_div_pow, Nat.pow_mul]

/-- R11: byte `j` of the big-endian form is digit `3 - j` in base 256. -/
theorem be32_getD_toNat (v : Word) : ∀ {j : Nat}, j < 4 → ((be32 v).getD j 0).toNat = v.toNat / 256 ^ (3 - j) % 256
  | 0, _ => extractLsb'_byte_toNat v 3
  | 1, _ => extractLsb'_byte_toNat v 2
  | 2, _ => extractLsb'_byte_toNat v 1
  | 3, _ => extractLsb'_byte_toNat v 0

/-- R11: the two bytes of the big-endian form, high byte first, are the number. -/
theorem be16_toNat {v : Nat} (h : v ≤ 65535) :
    256 * (BitVec.ofNat 8 (v / 256)).toNat + (BitVec.ofNat 8 v).toNat = v := by
  rw [BitVec.toNat_ofNat, BitVec.toNat_ofNat]
  omega

/-! ### The fields of a packet -/

/-- A byte of a field, from what the packet holds from the field's offset on. -/
theorem getD_of_drop_eq_append {p field rest : List Byte} {offset j : Nat} (h : p.drop offset = field ++ rest)
    (hj : j < field.length) : p.getD (offset + j) 0 = field.getD j 0 := by
  rw [← List.getD_append field rest 0 j hj, ← h, List.getD_eq_getElem?_getD, List.getD_eq_getElem?_getD,
    List.getElem?_drop]

section Fields
variable (src tx : Word) (seq : Nat) (ck pl : List Byte)

theorem frame_preamble {j : Nat} (hj : j < 32) : (frame src tx seq ck pl).getD j 0 = 0x55 := by
  rw [← Nat.zero_add j]
  exact (getD_of_drop_eq_append (field := List.replicate 32 0x55) rfl hj).trans (List.getD_replicate _ hj)

theorem frame_source {j : Nat} (hj : j < 4) : (frame src tx seq ck pl).getD (32 + j) 0 = (be32 src).getD j 0 :=
  getD_of_drop_eq_append rfl hj

theorem frame_transmitter {j : Nat} (hj : j < 4) : (frame src tx seq ck pl).getD (36 + j) 0 = (be32 tx).getD j 0 :=
  getD_of_drop_eq_append rfl hj

theorem frame_sequence : (frame src tx seq ck pl).getD 40 0 = BitVec.ofNat 8 seq := rfl

theorem frame_dataLength_high : (frame src tx seq ck pl).getD 41 0 = BitVec.ofNat 8 (pl.length / 256) := rfl

theorem frame_dataLength_low : (frame src tx seq ck pl).getD 42 0 = BitVec.ofNat 8 pl.length := rfl

theorem frame_reserved {j : Nat} (hj : j < 8) : (frame src tx seq ck pl).getD (43 + j) 0 = 0x00 :=
  (getD_of_drop_eq_append (field := List.replicate 8 0x00) rfl hj).trans (List.getD_replicate _ hj)

theorem frame_drop_51 : (frame src tx seq ck pl).drop 51 = ck ++ pl := rfl

variable {ck}

theorem frame_checksum (hck : ck.length = 32) : ((frame src tx seq ck pl).drop 51).take 32 = ck := by
  rw [frame_drop_51, List.take_left' hck]

theorem frame_payload (hck : ck.length = 32) : (frame src tx seq ck pl).drop 83 = pl := by
  rw [← List.drop_drop (i := 32) (j := 51), frame_drop_51, List.drop_left' hck]

variable {seq} {pl}

theorem frame_sequence_toNat (hseq : seq ≤ 255) : ((frame src tx seq ck pl).getD 40 0).toNat = seq := by
  rw [frame_sequence, BitVec.toNat_ofNat, Nat.mod_eq_of_lt (Nat.lt_succ_of_le hseq)]

theorem frame_dataLength_toNat (hpl : pl.length ≤ 65535) :
    256 * ((frame src tx seq ck pl).getD 41 0).toNat + ((frame src tx seq ck pl).getD 42 0).toNat = pl.length := by
  rw [frame_dataLength_high, frame_dataLength_low, be16_toNat hpl]

end Fields

/-- Settles O30: field by field. -/
theorem packetFieldsLieAtTheirOffsets : Obligations.PacketFieldsLieAtTheirOffsets := by
  intro src tx seq ck pl hseq hck hpl
  refine ⟨_, rfl, frame_length src tx seq pl hck, fun j hj => ?preamble, fun j hj => ?source, fun j hj => ?transmitter,
    frame_sequence_toNat src tx hseq, frame_dataLength_toNat src tx hpl, fun j hj => ?reserved,
    frame_checksum src tx seq pl hck, frame_payload src tx seq pl hck⟩
  case preamble => rw [frame_preamble src tx seq ck pl hj]; rfl
  case source => rw [frame_source src tx seq ck pl hj, be32_getD_toNat src hj]
  case transmitter => rw [frame_transmitter src tx seq ck pl hj, be32_getD_toNat tx hj]
  case reserved => rw [frame_reserved src tx seq ck pl hj]; rfl

/-! ### build_all -/

theorem buildAll_getElem? (src tx : Word) {count r : Nat} (ck pl : List Byte) (hr : r < count) :
    (buildAll src tx count ck pl)[r]? = some (frame src tx (r + 1) ck pl) := by
  rw [buildAll, List.getElem?_map, List.getElem?_range hr, Option.map_some]

/-- The sequence number is byte 40 and nothing else of the packet. -/
theorem frame_eq_set (src tx : Word) (seq seq' : Nat) (ck pl : List Byte) :
    frame src tx seq' ck pl = (frame src tx seq ck pl).set 40 (BitVec.ofNat 8 seq') := rfl

theorem frame_getD_of_ne_40 (src tx : Word) (seq seq' : Nat) (ck pl : List Byte) {j : Nat} (hj : j ≠ 40) :
    (frame src tx seq ck pl).getD j 0 = (frame src tx seq' ck pl).getD j 0 := by
  rw [frame_eq_set src tx seq seq', List.getD_eq_getElem?_getD, List.getD_eq_getElem?_getD, List.getElem?_set_ne hj.symm]

/-- Settles O32: the r-th packet is the frame numbered r, and a frame's number is its byte 40. -/
theorem buildAllNumbersItsPackets : Obligations.BuildAllNumbersItsPackets := by
  intro src tx count ck pl hcount hck hpl
  refine ⟨buildAll_size src tx count ck pl, fun r hr => ?numbered, fun p hp p' hp' j hj => ?alike⟩
  case numbered =>
    exact ⟨_, buildAll_getElem? src tx ck pl hr, rfl, frame_length src tx _ pl hck,
      frame_sequence_toNat src tx (by omega), frame_dataLength_toNat src tx hpl⟩
  case alike =>
    obtain ⟨r, -, rfl⟩ := mem_buildAll hp
    obtain ⟨r', -, rfl⟩ := mem_buildAll hp'
    exact frame_getD_of_ne_40 src tx _ _ ck pl hj

/-! ### BUILD_PACKET -/

theorem buildPacket_of_lengthExceeded {s : State} (h : s.lengthExceeded) :
    buildPacket s = finish .lengthExceeded s := if_pos h

theorem buildPacket_of_seqExceeded {s : State} (hlen : ¬s.lengthExceeded) (hseq : s.seqExceeded) :
    buildPacket s = finish .seqOverflow s := by
  rw [buildPacket, if_neg hlen, if_pos hseq]

theorem buildPacket_of_legal {s : State} (hlen : ¬s.lengthExceeded) (hseq : ¬s.seqExceeded) :
    buildPacket s = finish .ok
      (setReg .pktLen (BitVec.ofNat 32 (Config.headerLen + s.msgLength)) (memWrite .pkt 0 s.framedPacket s)) := by
  rw [buildPacket, if_neg hlen, if_neg hseq]

/-- A command that has written memory and PKT_LEN only and then ends has changed those, SEQR and STATUS. -/
theorem finish_setPktLen_of_mem_only {s u t : State} {v : Word} {e : ErrCode} (hu : u = { s with mem := u.mem })
    (ht : t = finish e (setReg .pktLen v u)) :
    t = { s with
      seqr := .idle
      mem := t.mem
      regs := { s.regs with
        pktLen := t.regs.pktLen
        status := { s.regs.status with err := e.code, done := true, busy := false } } } := by
  rw [ht, hu]
  rfl

section Legal
variable {s : State} (hlen : ¬s.lengthExceeded) (hseq : ¬s.seqExceeded)
include hlen hseq

theorem buildPacket_pktLen_toNat : (buildPacket s).regs.pktLen.toNat = 83 + s.msgLength := by
  have hfits : s.msgLength ≤ 65535 := not_lt.mp hlen
  have hreg : (buildPacket s).regs.pktLen = BitVec.ofNat 32 (83 + s.msgLength) := by
    rw [buildPacket_of_legal hlen hseq, finish_regs, setReg_regs, Regs.set]
  rw [hreg, BitVec.toNat_ofNat]
  omega

theorem buildPacket_bytesStored (hwf : Memory.wf s.mem = true) :
    BytesStored s (buildPacket s) Buf.pkt.base s.framedPacket := by
  rw [buildPacket_of_legal hlen hseq]
  refine (BytesStored_memWrite .pkt 0 s.framedPacket s hwf).of_eq ?_ ?_
  · rw [finish_mem, setReg_mem]
  · rw [finish_drawEpoch, setReg_drawEpoch]

end Legal

/-- Settles O31: by the two checks in order; what passes both stores its frame. -/
theorem buildPacketStoresTheFrame : Obligations.BuildPacketStoresTheFrame := by
  refine ⟨rfl, fun s => ⟨fun hlong => ?tooLong, fun hfits hover => ?overflow, fun hwf hfits hseq => ?stored⟩⟩
  case tooLong => exact congrArg Host.Outcome.next (buildPacket_of_lengthExceeded hlong)
  case overflow => exact congrArg Host.Outcome.next (buildPacket_of_seqExceeded (not_lt.mpr hfits) hover)
  case stored =>
    have hlen : ¬s.lengthExceeded := not_lt.mpr hfits
    have hseq : ¬s.seqExceeded := not_lt.mpr hseq
    exact ⟨buildPacket s, rfl,
      finish_setPktLen_of_mem_only (memWrite_mem_only .pkt 0 s.framedPacket s) (buildPacket_of_legal hlen hseq),
      buildPacket_pktLen_toNat hlen hseq, buildPacket_bytesStored hlen hseq hwf⟩

end Sys2Proof.Machine
end

section
/-! The tone synthesizer (spec/44_tone.md): exact rounding and the sample count (R149, R152, R155), tone buffers (R146,
R147), and GEN_TONE (R145). -/

namespace Sys2Proof.Machine

/-! ### Exact rounding, read in the rationals -/

section Rounding
variable {num den n : ℕ}

/-- Below the tie: twice the remainder is less than the denominator. -/
theorem roundHE_of_two_mul_mod_lt (h : 2 * (num % den) < den) : roundHE num den = num / den := if_pos h

/-- Above the tie. -/
theorem roundHE_of_lt_two_mul_mod (h : den < 2 * (num % den)) : roundHE num den = num / den + 1 := by
  simp only [roundHE, if_neg h.not_gt, if_pos h]

/-- At the tie. -/
theorem roundHE_of_two_mul_mod_eq (h : 2 * (num % den) = den) :
    roundHE num den = if num / den % 2 = 0 then num / den else num / den + 1 := by
  simp only [roundHE, if_neg h.not_lt, if_neg h.not_gt]

@[simp] theorem roundHE_zero (den : ℕ) : roundHE 0 den = 0 := by simp [roundHE]

section Floor
variable (hlow : (n : ℚ) ≤ (num : ℚ) / den) (hhigh : (num : ℚ) / den < (n : ℚ) + 1)
include hlow hhigh

/-- R152's `n` is the quotient of the naturals. -/
theorem div_eq_of_floor : num / den = n := by
  rw [← Nat.floor_div_eq_div (K := ℚ) num den]
  exact (Nat.floor_eq_iff (by positivity)).mpr ⟨hlow, hhigh⟩

/-- R152's `r` is the remainder over the denominator. -/
theorem sub_floor_eq_mod_div : (num : ℚ) / den - n = ((num % den : ℕ) : ℚ) / den := by
  rw [← Int.fract_div_natCast_eq_div_natCast_mod, eq_comm, Int.fract_eq_iff]
  exact ⟨sub_nonneg.mpr hlow, by linarith only [hhigh], n, by simp⟩

variable (hden : 0 < den)
include hden

/-- R152's `r`, doubled and cleared of the denominator. -/
theorem two_mul_mod_eq : ((2 * (num % den) : ℕ) : ℚ) = 2 * ((num : ℚ) / den - n) * den := by
  have hpos : (den : ℚ) ≠ 0 := Nat.cast_ne_zero.mpr hden.ne'
  rw [sub_floor_eq_mod_div hlow hhigh, mul_assoc, div_mul_cancel₀ _ hpos, Nat.cast_mul, Nat.cast_two]

theorem roundHE_of_fract_lt_half (h : (num : ℚ) / den - n < 1 / 2) : roundHE num den = n := by
  have hlt : 2 * (num % den) < den := by
    rw [← Nat.cast_lt (α := ℚ), two_mul_mod_eq hlow hhigh hden]
    exact mul_lt_of_lt_one_left (Nat.cast_pos.mpr hden) (by linarith only [h])
  rw [roundHE_of_two_mul_mod_lt hlt, div_eq_of_floor hlow hhigh]

theorem roundHE_of_half_lt_fract (h : 1 / 2 < (num : ℚ) / den - n) : roundHE num den = n + 1 := by
  have hgt : den < 2 * (num % den) := by
    rw [← Nat.cast_lt (α := ℚ), two_mul_mod_eq hlow hhigh hden]
    exact lt_mul_of_one_lt_left (Nat.cast_pos.mpr hden) (by linarith only [h])
  rw [roundHE_of_lt_two_mul_mod hgt, div_eq_of_floor hlow hhigh]

theorem roundHE_of_fract_eq_half (h : (num : ℚ) / den - n = 1 / 2) :
    roundHE num den = if n % 2 = 0 then n else n + 1 := by
  have heq : 2 * (num % den) = den := by
    rw [← Nat.cast_inj (R := ℚ), two_mul_mod_eq hlow hhigh hden, h, mul_one_div_cancel two_ne_zero, one_mul]
  rw [roundHE_of_two_mul_mod_eq heq, div_eq_of_floor hlow hhigh]

end Floor
end Rounding

/-! ### The sample count -/

/-- R149: the product of a natural and two Q16.16 values is the product of their raw values over 2^32. -/
theorem natCast_mul_toRat_mul_toRat (r : ℕ) (a b : Word) :
    (r : ℚ) * Q16.toRat ⟨a⟩ * Q16.toRat ⟨b⟩ = ((r * a.toNat * b.toNat : ℕ) : ℚ) / (2 ^ 32 : ℕ) := by
  simp only [Q16.toRat]
  push_cast
  ring

/-- Settles O33: the product is the quotient `nSamples` rounds, and `roundHE` compares its fraction with 1/2. -/
theorem sampleCountIsTheRoundedProduct : Obligations.SampleCountIsTheRoundedProduct := by
  intro s d x n hx hlow hhigh
  rw [natCast_mul_toRat_mul_toRat] at hx
  subst hx
  have hden : 0 < 2 ^ 32 := by decide
  exact ⟨by rw [Nat.cast_pow, Nat.cast_ofNat], roundHE_of_fract_lt_half hlow hhigh hden,
    roundHE_of_half_lt_fract hlow hhigh hden, roundHE_of_fract_eq_half hlow hhigh hden⟩

theorem nSamples_of_zero_operand {s : State} {d : Word}
    (h : s.regs.sampleRate = 0 ∨ s.regs.durMult = 0 ∨ d = 0) : s.nSamples d = 0 := by
  have hproduct : s.rate * d.toNat * s.regs.durMult.toNat = 0 := by
    rcases h with hrate | hmult | hd
    · simp [State.rate, hrate]
    · simp [hmult]
    · simp [hd]
  rw [State.nSamples, hproduct, roundHE_zero]

/-! ### Tone buffers -/

@[simp] theorem tone_getElem? (sr : Nat) (f : Q16) {n k : Nat} (hk : k < n) :
    (tone sr f n)[k]? = some (toneFn f sr k) := by
  rw [tone, List.getElem?_map, List.getElem?_range hk, Option.map_some]

theorem toneFn_frequency_zero (sr k : Nat) : toneFn ⟨0⟩ sr k = zeroSample := if_pos (.inl rfl)

theorem tone_frequency_zero (sr n : Nat) : tone sr ⟨0⟩ n = List.replicate n zeroSample := by
  simp only [tone, toneFn_frequency_zero, List.map_const', List.length_range]

@[simp] theorem tone_no_samples (sr : Nat) (f : Q16) : tone sr f 0 = [] := rfl

/-- Settles O34: `tone` maps TONE_FN over the sample numbers, and TONE_FN at frequency 0 is constant. -/
theorem toneHasItsSamplesAndZeroIsSilent : Obligations.ToneHasItsSamplesAndZeroIsSilent :=
  fun sr n f => ⟨tone_size sr f n, fun _ hk => tone_getElem? sr f hk, toneFn_frequency_zero sr,
    tone_frequency_zero sr n⟩

/-- Settles O35: each zero operand makes the product 0, which rounds to 0, and a tone of 0 samples is empty. -/
theorem zeroOperandsGiveEmptyBuffers : Obligations.ZeroOperandsGiveEmptyBuffers := by
  intro s d f h
  have hcount : s.nSamples d = 0 := nSamples_of_zero_operand h
  exact ⟨hcount, by rw [hcount, tone_no_samples]⟩

/-! ### GEN_TONE -/

/-- Settles O36: GEN_TONE is the start of its script, in every state. -/
theorem genToneStartsOneTone : Obligations.GenToneStartsOneTone :=
  ⟨rfl, fun s => (exec_command .genTone s).trans (congrArg Host.Outcome.next (start_eq s.toneScript s))⟩

end Sys2Proof.Machine
end

section
/-! The modulator (spec/45_modulator.md): `bits` index by index (R160), the tone of each bit (R161, R162), silence (R165),
the preamble's tones (R166), and MODULATE (R163). -/

namespace Sys2Proof.Machine

/-! ### Bits -/

theorem byteBits_getElem? (b : Byte) {j : Nat} (hj : j < 8) : (byteBits b)[j]? = some (b.getLsbD (7 - j)) := by
  rw [byteBits, List.getElem?_map, List.getElem?_range hj, Option.map_some]

/-- R160: the first byte holds the first eight bits, and the rest of the list holds the rest. -/
theorem bits_getElem? {p : List Byte} {i : Nat} (hi : i < 8 * p.length) :
    (bits p)[i]? = some ((p.getD (i / 8) 0).getLsbD (7 - i % 8)) := by
  induction p generalizing i with
  | nil => cases hi
  | cons b p ih =>
    rw [bits_cons]
    by_cases hfirst : i < 8
    · rw [List.getElem?_append_left (by rwa [byteBits_length]), byteBits_getElem? b hfirst,
        Nat.div_eq_of_lt hfirst, Nat.mod_eq_of_lt hfirst, List.getD_cons_zero]
    · obtain ⟨k, rfl⟩ := Nat.exists_eq_add_of_le' (not_lt.mp hfirst)
      have hk : k < 8 * p.length := by rw [List.length_cons] at hi; omega
      rw [List.getElem?_append_right (by rw [byteBits_length]; omega), byteBits_length, Nat.add_sub_cancel, ih hk,
        Nat.add_div_right k (by decide), Nat.add_mod_right, List.getD_cons_succ]

/-- Settles O37: by the length and the index law of `bits`. -/
theorem bitsAreMostSignificantFirst : Obligations.BitsAreMostSignificantFirst :=
  fun p => ⟨bits_length p, fun _ hi => bits_getElem? hi⟩

theorem eq_false_of_mem_byteBits_zero : ∀ v ∈ byteBits 0x00, v = false := by decide

theorem eq_false_of_mem_bits {p : List Byte} (hp : ∀ b ∈ p, b = 0x00) {v : Bool} (hv : v ∈ bits p) : v = false := by
  obtain ⟨b, hb, hvb⟩ := List.mem_flatMap.mp hv
  rw [hp b hb] at hvb
  exact eq_false_of_mem_byteBits_zero v hvb

/-! ### Tones of bits -/

/-- R161, with the choice made between the two frequencies rather than their raw values. -/
theorem bitTone_eq (s : State) (v : Bool) :
    s.bitTone v = tone s.rate (if v = true then ⟨s.regs.fHigh⟩ else ⟨s.regs.fLow⟩) s.nBit := by
  cases v <;> rfl

theorem bitTone_false_of_fLow_zero {s : State} (h : s.regs.fLow = 0) :
    s.bitTone false = List.replicate s.nBit zeroSample := by
  have hlow : s.bitTone false = tone s.rate ⟨s.regs.fLow⟩ s.nBit := bitTone_eq s false
  rw [hlow, h, tone_frequency_zero]

@[simp] theorem modulatePacket_length (s : State) (p : List Byte) : (s.modulatePacket p).length = 8 * p.length := by
  rw [State.modulatePacket, List.length_map, bits_length]

/-- R162, with R160 and R161 put in. -/
theorem modulatePacket_getElem? (s : State) {p : List Byte} {i : Nat} (hi : i < 8 * p.length) :
    (s.modulatePacket p)[i]? =
      some (tone s.rate
        (if (p.getD (i / 8) 0).getLsbD (7 - i % 8) = true then ⟨s.regs.fHigh⟩ else ⟨s.regs.fLow⟩) s.nBit) := by
  rw [State.modulatePacket, List.getElem?_map, bits_getElem? hi, Option.map_some, bitTone_eq]

/-- Settles O38: `modulate` maps `bitTone` over the bits, and the tone of frequency 0 is silent. -/
theorem modulationFollowsTheBits : Obligations.ModulationFollowsTheBits :=
  fun s p => ⟨modulatePacket_length s p, bitTone_false_of_fLow_zero, fun _ hi => modulatePacket_getElem? s hi⟩

/-- Settles O39: every bit of an all-zero packet is 0, so every buffer is the low tone, and F_HIGH is not read. -/
theorem zeroPacketIsSilentAtZeroLowTone : Obligations.ZeroPacketIsSilentAtZeroLowTone := by
  intro s p hlow hp buf hbuf
  obtain ⟨v, hv, rfl⟩ := List.mem_map.mp hbuf
  rw [eq_false_of_mem_bits hp hv, bitTone_false_of_fLow_zero hlow]

/-! ### The preamble -/

/-- R133: a preamble byte is 0, 1 four times, from bit 7 down. -/
theorem preambleByte_getLsbD : ∀ {j : Nat}, j < 8 → (0x55 : Byte).getLsbD (7 - j) = decide (j % 2 = 1) := by decide

theorem preamble_length_le_frame_length (src tx : Word) (seq : Nat) (ck pl : List Byte) :
    32 ≤ (frame src tx seq ck pl).length := by
  simp only [frame, List.length_append, List.length_replicate]
  omega

/-- Settles O40: buffer `i` comes from preamble byte `i / 8`, and `i % 8` has the parity of `i`. -/
theorem framedPacketsBeginLowHigh : Obligations.FramedPacketsBeginLowHigh := by
  intro s src tx seq ck pl i hi
  have hlength := preamble_length_le_frame_length src tx seq ck pl
  have hbyte : (frame src tx seq ck pl).getD (i / 8) 0 = 0x55 := frame_preamble src tx seq ck pl (by omega)
  have hbit : (0x55 : Byte).getLsbD (7 - i % 8) = decide (i % 2 = 1) := by
    rw [preambleByte_getLsbD (Nat.mod_lt i (by decide)), Nat.mod_mod_of_dvd i (by decide)]
  rw [modulatePacket_getElem? s (by omega), hbyte, hbit]
  simp only [decide_eq_true_eq]

/-! ### MODULATE -/

/-- Settles O41: MODULATE is the start of its script, in every state. -/
theorem modulateStartsThePacketInPkt : Obligations.ModulateStartsThePacketInPkt :=
  ⟨rfl, fun s => (exec_command .modulate s).trans (congrArg Host.Outcome.next (start_eq s.modulateScript s))⟩

end Sys2Proof.Machine
end

section
/-! What a sink's answer does, said once, as one record update for each answer (spec/46_sequencer.md R173 to R175), and the
sequencer's step that an answer is (log 3). -/

namespace Sys2Proof.Machine

theorem recordAnswer_eq (e : Event) (r : Answer) (s : State) :
    recordAnswer e r s =
      { s with
        audioTrace := if e.sink = .audio then s.audioTrace ++ [(e, r)] else s.audioTrace
        fileTrace := if e.sink = .file then s.fileTrace ++ [(e, r)] else s.fileTrace } := by
  cases e <;> rfl

/-! ### Ok -/

theorem openedAfterOk_eq (e : Event) (opened : Bool) :
    openedAfterOk e opened = if e = .aOpen then true else if e = .aClose then false else opened := by
  cases e <;> rfl

/-- SINK_OPEN goes the way of `opened`. -/
theorem sinkOpenAfterOk_eq (e : Event) (s : State) :
    sinkOpenAfterOk e s = setSinkOpen (openedAfterOk e s.regs.status.sinkOpen) s := by
  cases e <;> rfl

/-- STATUS after an Ok answer to `e` with the events `rest` after it (spec/46_sequencer.md R174). -/
def Status.afterOk (st : Status) (e : Event) (rest : List Event) (aborting : Bool) : Status :=
  if aborting = true then (st.withSinkOpen (openedAfterOk e st.sinkOpen)).finished .sinkFailure
  else if rest = [] then (st.withSinkOpen (openedAfterOk e st.sinkOpen)).finished .ok
  else st.withSinkOpen (openedAfterOk e st.sinkOpen)

theorem answerOk_eq (e : Event) (rest : List Event) (opened aborting : Bool) (s : State) :
    answerOk e rest opened aborting s =
      { s with
        seqr := if aborting = true ∨ rest = [] then .idle else .run rest (openedAfterOk e opened) false
        regs := { s.regs with
          progress := if aborting = true then s.regs.progress else s.regs.progress + 1
          status := s.regs.status.afterOk e rest aborting } } := by
  unfold answerOk
  rw [sinkOpenAfterOk_eq]
  cases aborting with
  | true => rfl
  | false => cases rest <;> rfl

/-- Settles O49: the step is the answer, which is recorded and then takes effect as `answerOk_eq` says. -/
theorem okAnswerAdvancesTheScript : Obligations.OkAnswerAdvancesTheScript := by
  intro s e rest opened aborting later hin hq
  refine ⟨_, _, _, step_answer hq hin, openedAfterOk_eq e opened, openedAfterOk_eq e s.regs.status.sinkOpen, ?_⟩
  rw [answered, answerOk_eq, recordAnswer_eq]
  rfl

/-! ### Fail -/

/-- An event whose failure is followed by the releasing AClose is an APlay or an APause. -/
theorem isPlayOrPause_iff (e : Event) :
    e.isPlayOrPause = true ↔ (∃ b sr, e = .aPlay b sr) ∨ ∃ d, e = .aPause d := by
  cases e <;> simp [Event.isPlayOrPause]

/-- The failing event `e` leaves the sink acquired, so the releasing AClose is offered next (spec/46_sequencer.md R175). -/
def releasesNext (e : Event) (aborting : Bool) : Bool := !aborting && e.isPlayOrPause

theorem answerFail_eq (e : Event) (aborting : Bool) (s : State) :
    answerFail e aborting s =
      { s with
        seqr := if releasesNext e aborting = true then .run [.aClose] true true else .idle
        regs := { s.regs with
          status :=
            if releasesNext e aborting = true then s.regs.status
            else
              (s.regs.status.withSinkOpen
                (if aborting = true ∨ e = .aClose then false else s.regs.status.sinkOpen)).finished .sinkFailure } } := by
  cases aborting with
  | true => rfl
  | false => cases e <;> rfl

/-- Settles O50: the step is the answer, which is recorded and then takes effect as `answerFail_eq` says. -/
theorem failAnswerReleasesAndReports : Obligations.FailAnswerReleasesAndReports := by
  intro s e rest opened aborting later hin hq
  refine ⟨_, releasesNext e aborting, step_answer hq hin, ?_, ?_⟩
  · rw [releasesNext, Bool.and_eq_true, Bool.not_eq_true', isPlayOrPause_iff]
  · rw [answered, answerFail_eq, recordAnswer_eq]
    rfl

/-! ### No input, and an answer to no event -/

theorem sinkAnswer_of_no_event {s : State} (h : s.seqr.script = []) (r : Answer) :
    sinkAnswer r s = .fault .answerNotOffered := by
  unfold sinkAnswer
  cases hq : s.seqr with
  | idle => rfl
  | run es opened aborting =>
    rw [hq] at h
    obtain rfl : es = [] := h
    rfl

/-- Settles O11: without an input the step keeps the state; an answer is `sinkAnswer`, which faults with no event offered. -/
theorem waitsWithoutInputAndFaultsOnStrayAnswer : Obligations.WaitsWithoutInputAndFaultsOnStrayAnswer := by
  refine ⟨fun s hin => ?_, fun s r rest hin hscript => ?_⟩
  · simp only [step, takeInput_nil hin]
  · simp only [step, takeInput_cons hin]
    exact sinkAnswer_of_no_event (s := { s with inputs := rest }) hscript r

end Sys2Proof.Machine
end

section
/-! The audio sink's protocol (spec/46_sequencer.md R171, R175, R176): each step moves SEQR and the audio trace together. -/

namespace Sys2Proof.Machine

/-! ### The trace grows by one pair -/

theorem audioPhase_append_singleton (phase : AudioPhase) (tr : List (Event × Answer)) (x : Event × Answer) :
    audioPhase phase (tr ++ [x]) = (audioPhase phase tr).bind fun phase' => audioNext phase' x := by
  induction tr generalizing phase with
  | nil =>
    simp only [List.nil_append, audioPhase, Option.bind_some]
    cases audioNext phase x <;> rfl
  | cons y tr ih =>
    simp only [List.cons_append, audioPhase]
    cases audioNext phase y with
    | none => rfl
    | some phase' => exact ih phase'

theorem AudioReleased.of_eq {s t : State} (h : AudioReleased s) (htrace : t.audioTrace = s.audioTrace)
    (hphase : t.seqr.audioPhase = s.seqr.audioPhase) : AudioReleased t := by
  rw [AudioReleased, htrace, hphase]
  exact h

/-- The audio trace takes the pair `x`, which the phase SEQR was in allows. -/
theorem AudioReleased.of_append {s t : State} {x : Event × Answer} (h : AudioReleased s)
    (htrace : t.audioTrace = s.audioTrace ++ [x]) (hnext : audioNext s.seqr.audioPhase x = some t.seqr.audioPhase) :
    AudioReleased t := by
  unfold AudioReleased at h ⊢
  rw [htrace, audioPhase_append_singleton, h, Option.bind_some, hnext]

/-! ### Host transactions -/

theorem runCommand_audioPhase (c : Cmd) (s : State) : (runCommand c s).seqr.audioPhase = .closed := by
  rcases runCommand_ends_or_starts c s with ⟨e, t, h⟩ | ⟨-, es, t, h, -, -⟩ <;> rw [h] <;> rfl

theorem accept_audioPhase (w : Word) (s : State) : (accept w s).seqr.audioPhase = .closed := by
  rcases accept_cases w s with ⟨e, -, h⟩ | ⟨c, -, h⟩ <;> rw [h]
  · rfl
  · exact runCommand_audioPhase c _

/-- Only an accepted command reaches SEQR, and it finds and leaves the sink closed. -/
theorem HostEffect.keeps_audioPhase {s t : State} {i : Instr} (h : HostEffect s i t) (hinv : Inv s) :
    t.seqr.audioPhase = s.seqr.audioPhase := by
  cases h with
  | accepted w hidle =>
    rw [accept_audioPhase, hinv.seqr_idle hidle]
    rfl
  | readRefused | readAnswered | writeRefused | writeDiscarded | statusCleared | registerStored | byteStored => rfl

/-! ### Answers -/

theorem answered_ok_seqr_of_rest (e : Event) {rest : List Event} (hrest : playsThenClose rest = true) (opened : Bool)
    (s : State) : (answered e rest opened false .ok s).seqr = .run rest (openedAfterOk e opened) false := by
  rw [answered, answerOk_of_rest e hrest]

theorem answered_fail_seqr_of_play {e : Event} (he : e.isPlayOrPause = true) (rest : List Event) (opened : Bool)
    (s : State) : (answered e rest opened false .fail s).seqr = .run [.aClose] true true := by
  rw [answered, answerFail_of_play he]

theorem answered_audioTrace (e : Event) (rest : List Event) (opened aborting : Bool) (r : Answer) (s : State) :
    (answered e rest opened aborting r s).audioTrace =
      if e.sink = .audio then s.audioTrace ++ [(e, r)] else s.audioTrace := by
  rw [← recordAnswer_audioTrace]
  cases r with
  | ok => rw [answered, answerOk_eq]
  | fail => rw [answered, answerFail_eq]

theorem sink_of_play {e : Event} (he : e.isPlayOrPause = true) : e.sink = .audio := by
  rcases (isPlayOrPause_iff e).mp he with ⟨b, sr, rfl⟩ | ⟨d, rfl⟩ <;> rfl

/-- An APlay or APause keeps the sink acquired, until its failure leaves only AClose. -/
theorem audioNext_of_play {e : Event} (he : e.isPlayOrPause = true) (r : Answer) :
    audioNext .acquired (e, r) = some (if r = .ok then .acquired else .releasing) := by
  rcases (isPlayOrPause_iff e).mp he with ⟨b, sr, rfl⟩ | ⟨d, rfl⟩ <;> cases r <;> rfl

/-- R175, R176: by the offered event, the protocol allows the answered event and ends where SEQR goes. -/
theorem answered_keeps_protocol {s : State} {e : Event} {rest : List Event} {opened aborting : Bool} (h : AudioReleased s)
    (hq : s.seqr = .run (e :: rest) opened aborting) (hoffered : Offered e rest opened aborting) (r : Answer) :
    AudioReleased (answered e rest opened aborting r s) := by
  have htrace := answered_audioTrace e rest opened aborting r s
  cases hoffered with
  | opening hrest =>
    refine h.of_append htrace ?_
    rw [hq]
    cases r with
    | ok => rw [answered_ok_seqr_of_rest _ hrest]; rfl
    | fail => rfl
  | writing id samples sr =>
    refine h.of_eq htrace ?_
    rw [hq]
    cases r <;> rfl
  | playing he hrest =>
    rw [if_pos (sink_of_play he)] at htrace
    refine h.of_append htrace ?_
    rw [hq]
    refine (audioNext_of_play he r).trans ?_
    cases r with
    | ok => rw [answered_ok_seqr_of_rest e hrest, openedAfterOk_of_play he]; rfl
    | fail => rw [answered_fail_seqr_of_play he]; rfl
  | closing | releasing =>
    refine h.of_append htrace ?_
    rw [hq]
    cases r <;> rfl

/-- Settles O54: waiting and a transaction keep the trace and the phase of SEQR, an answer moves both alike, and a reset
empties the trace with SEQR Idle. -/
theorem everyStepKeepsTheSinkProtocol : Obligations.EveryStepKeepsTheSinkProtocol := by
  intro s t hinv h ht
  rcases step_next_cases ht with ⟨-, rfl⟩ | ⟨w, rest, -, hexec⟩ | ⟨r, rest, -, hans⟩ | ⟨rest, -, rfl⟩
  · exact h
  · have heffect := exec_decodeHbt_effect rfl hexec
    obtain ⟨haudio, -, -, -⟩ := heffect.keeps_surroundings
    exact h.of_eq haudio (heffect.keeps_audioPhase (hinv.of_eq rfl rfl rfl rfl rfl))
  · obtain ⟨e, es, opened, aborting, hq, rfl⟩ := sinkAnswer_next hans
    have htaken : AudioReleased { s with inputs := rest } := h.of_eq rfl rfl
    exact answered_keeps_protocol htaken hq (offered_of_legal (hq ▸ hinv.scriptLegal)) r
  · rfl

end Sys2Proof.Machine
end

section
/-! Runs of a script by the sinks' answers (spec/46_sequencer.md R175, R177, R190): a stretch of Ok answers, and what the
answer after it ends. -/

namespace Sys2Proof.Machine

/-! ### A stretch of Ok answers -/

/-- `opened` after every event of `es` was answered Ok (spec/46_sequencer.md R174). -/
def openedAfterOks : List Event → Bool → Bool
  | [], opened => opened
  | e :: es, opened => openedAfterOks es (openedAfterOk e opened)

/-- `s` after every event of `es` was answered Ok, with the events `rest` still to be offered. -/
def State.afterOks (s : State) (es rest : List Event) (opened : Bool) (later : List Input) : State :=
  { s with
    inputs := later
    seqr := .run rest (openedAfterOks es opened) false
    audioTrace := s.audioTrace ++ traceOf .audio .ok es
    fileTrace := s.fileTrace ++ traceOf .file .ok es
    regs := { s.regs with
      progress := s.regs.progress + BitVec.ofNat 32 es.length
      status := s.regs.status.withSinkOpen (openedAfterOks es s.regs.status.sinkOpen) } }

theorem traceOf_append (k : Sink) (r : Answer) (es es' : List Event) :
    traceOf k r (es ++ es') = traceOf k r es ++ traceOf k r es' := by
  simp [traceOf]

theorem recordAnswer_eq_traceOf (e : Event) (r : Answer) (s : State) :
    recordAnswer e r s =
      { s with
        audioTrace := s.audioTrace ++ traceOf .audio r [e]
        fileTrace := s.fileTrace ++ traceOf .file r [e] } := by
  cases e <;> simp [recordAnswer, traceOf, Event.sink]

theorem afterOks_nil {s : State} {rest : List Event} {opened : Bool} {later : List Input}
    (hq : s.seqr = .run rest opened false) (hin : s.inputs = later) : s.afterOks [] rest opened later = s := by
  subst hin
  simp [State.afterOks, openedAfterOks, traceOf, Status.withSinkOpen, ← hq]

/-- An Ok answer that leaves events to offer is the shortest stretch. -/
theorem step_ok {s : State} {e : Event} {rest : List Event} (hrest : rest ≠ []) {opened : Bool} {later : List Input}
    (hq : s.seqr = .run (e :: rest) opened false) (hin : s.inputs = .answer .ok :: later) :
    step s = .next (s.afterOks [e] rest opened later) := by
  rw [step_answer hq hin, answered, answerOk_eq, recordAnswer_eq_traceOf]
  simp [hrest, Status.afterOk, State.afterOks, openedAfterOks]

theorem afterOks_afterOks (s : State) (e : Event) (es rest : List Event) (opened : Bool) (later later' : List Input) :
    (s.afterOks [e] (es ++ rest) opened later).afterOks es rest (openedAfterOk e opened) later' =
      s.afterOks (e :: es) rest opened later' := by
  have htrace (k : Sink) : traceOf k .ok (e :: es) = traceOf k .ok [e] ++ traceOf k .ok es := traceOf_append k .ok [e] es
  simp only [State.afterOks, htrace, openedAfterOks, List.length_cons, List.append_assoc]
  simp [Status.withSinkOpen, BitVec.add_assoc, Nat.add_comm es.length, BitVec.ofNat_add]

/-- R174, R177: Ok answers that leave events to offer run in one step each. -/
theorem run_oks {es rest : List Event} (hrest : rest ≠ []) {opened : Bool} {s : State} {later : List Input}
    (hq : s.seqr = .run (es ++ rest) opened false)
    (hin : s.inputs = List.replicate es.length (.answer .ok) ++ later) :
    Host.Core.run Sys2Proof.core es.length s = .next (s.afterOks es rest opened later) := by
  induction es generalizing opened s with
  | nil => exact congrArg Host.Outcome.next (afterOks_nil hq hin).symm
  | cons e es ih =>
    have hne : es ++ rest ≠ [] := List.append_ne_nil_of_right_ne_nil es hrest
    have hfirst := run_succ_of_step (M := Sys2Proof.core) (step_ok hne hq hin) es.length
    refine hfirst.trans ((ih rfl rfl).trans ?_)
    exact congrArg Host.Outcome.next (afterOks_afterOks s e es rest opened _ later)

/-- R48, R170: what is left of a legal script after an Ok answer is legal. -/
theorem legal_afterOk {e : Event} {rest : List Event} (hrest : rest ≠ []) {opened : Bool}
    (h : (Seqr.run (e :: rest) opened false).legal = true) :
    (Seqr.run rest (openedAfterOk e opened) false).legal = true := by
  cases offered_of_legal h with
  | opening hplays => exact hplays
  | playing he hplays => rw [openedAfterOk_of_play he]; exact hplays
  | writing | closing => exact absurd rfl hrest

theorem legal_afterOks {es rest : List Event} (hrest : rest ≠ []) {opened : Bool}
    (h : (Seqr.run (es ++ rest) opened false).legal = true) :
    (Seqr.run rest (openedAfterOks es opened) false).legal = true := by
  induction es generalizing opened with
  | nil => exact h
  | cons e es ih => exact ih (legal_afterOk (List.append_ne_nil_of_right_ne_nil es hrest) h)

/-! ### The answer that ends the stretch -/

/-- The step after a stretch of Ok answers is the answer to the next event. -/
theorem run_oks_then_answer {es rest : List Event} {e : Event} {opened : Bool} {s : State} {r : Answer}
    {later : List Input} (hq : s.seqr = .run (es ++ e :: rest) opened false)
    (hin : s.inputs = List.replicate es.length (.answer .ok) ++ .answer r :: later) :
    Host.Core.run Sys2Proof.core (es.length + 1) s =
      .next (answered e rest (openedAfterOks es opened) false r (s.afterOks es (e :: rest) opened later)) :=
  (run_add_of_run (run_oks (List.cons_ne_nil e rest) hq hin) 1).trans
    (run_succ_of_step (M := Sys2Proof.core) (step_answer rfl rfl) 0)

/-- The Ok answer to the last event ends the command with OK. -/
theorem answered_ok_last_afterOks (s : State) (es : List Event) (e : Event) (opened : Bool) (later : List Input)
    {t : State} (ht : t = answered e [] (openedAfterOks es opened) false .ok (s.afterOks es [e] opened later)) :
    t = { s with
      inputs := later
      seqr := .idle
      audioTrace := s.audioTrace ++ traceOf .audio .ok (es ++ [e])
      fileTrace := s.fileTrace ++ traceOf .file .ok (es ++ [e])
      regs := { s.regs with
        progress := s.regs.progress + BitVec.ofNat 32 (es ++ [e]).length
        status := { s.regs.status with
          err := 0, done := true, busy := false, sinkOpen := t.regs.status.sinkOpen } } } := by
  rw [answered, answerOk_eq, recordAnswer_eq_traceOf] at ht
  subst ht
  simp [State.afterOks, Status.afterOk, traceOf_append, BitVec.ofNat_add, BitVec.add_assoc, Status.withSinkOpen,
    Status.finished, ErrCode.code]

/-- R176: the Ok answer to the last event of a legal script leaves the sink released. -/
theorem answered_ok_last_sinkOpen {s : State} {e : Event} {opened : Bool} (h : Offered e [] opened false)
    (hsink : s.regs.status.sinkOpen = opened) : (answered e [] opened false .ok s).regs.status.sinkOpen = false := by
  cases h with
  | opening hplays => cases hplays
  | playing he hplays => cases hplays
  | writing => exact hsink
  | closing => rfl

theorem offered_afterOks {es rest : List Event} {e : Event} {opened : Bool}
    (h : (Seqr.run (es ++ e :: rest) opened false).legal = true) : Offered e rest (openedAfterOks es opened) false :=
  offered_of_legal (legal_afterOks (List.cons_ne_nil e rest) h)

/-- Settles O51: all events but the last are a stretch of Ok answers, and the answer to the last ends the command. -/
theorem scriptEndsWhenAllAnswersAreOk : Obligations.ScriptEndsWhenAllAnswersAreOk := by
  intro s script opened later hq hne hin
  obtain ⟨es, e, rfl⟩ : ∃ es e, script = es ++ [e] :=
    ⟨_, _, (List.dropLast_append_getLast hne).symm⟩
  have hin' : s.inputs = List.replicate es.length (.answer .ok) ++ .answer .ok :: later := by
    rw [hin, List.length_append, List.length_singleton, List.replicate_succ', List.append_assoc]
    rfl
  refine ⟨_, ?_, answered_ok_last_afterOks s es e opened later rfl, fun hlegal hsink => ?_⟩
  · rw [List.length_append]
    exact run_oks_then_answer hq hin'
  · rw [hq] at hlegal
    exact answered_ok_last_sinkOpen (offered_afterOks hlegal) (congrArg (openedAfterOks es) hsink)

/-! ### The first failure -/

/-- The Fail answer after a stretch of Ok answers: of the registers only STATUS changes. -/
theorem answered_fail_afterOks (s : State) (es rest : List Event) (e : Event) (opened : Bool) (later : List Input)
    {t : State} (ht : t = answered e rest (openedAfterOks es opened) false .fail (s.afterOks es (e :: rest) opened later)) :
    t = { s with
      inputs := later
      seqr := t.seqr
      audioTrace := s.audioTrace ++ traceOf .audio .ok es ++ traceOf .audio .fail [e]
      fileTrace := s.fileTrace ++ traceOf .file .ok es ++ traceOf .file .fail [e]
      regs := { s.regs with
        progress := s.regs.progress + BitVec.ofNat 32 es.length
        status := { t.regs.status with wviol := s.regs.status.wviol, aerr := s.regs.status.aerr } } } := by
  rw [answered, answerFail_eq, recordAnswer_eq_traceOf] at ht
  subst ht
  cases releasesNext e false <;> rfl

/-- R175: a failed AOpen, AClose or FWrite ends the command with SINK_FAILURE and no sink held. -/
theorem answered_fail_ends {s t : State} {e : Event} {rest : List Event} {opened : Bool}
    (ht : t = answered e rest opened false .fail s) (h : Offered e rest opened false) (he : e.isPlayOrPause = false)
    (hsink : s.regs.status.sinkOpen = opened) :
    t.seqr = .idle ∧ t.regs.status.err = 4 ∧ t.regs.status.done = true ∧ t.regs.status.busy = false ∧
      t.regs.status.sinkOpen = false := by
  subst ht
  cases h with
  | opening => exact ⟨rfl, rfl, rfl, rfl, hsink⟩
  | writing => exact ⟨rfl, rfl, rfl, rfl, hsink⟩
  | closing => exact ⟨rfl, rfl, rfl, rfl, rfl⟩
  | playing hplay => rw [he] at hplay; cases hplay

/-- R175: the releasing AClose, answered Ok or Fail, ends the command with SINK_FAILURE and no sink held. -/
theorem step_releasing {t : State} (hq : t.seqr = .run [.aClose] true true) {r : Answer} {later : List Input}
    (hin : t.inputs = .answer r :: later) :
    ∃ u, step t = .next u ∧ u.seqr = .idle ∧ u.regs.status.err = 4 ∧ u.regs.status.done = true ∧
      u.regs.status.busy = false ∧ u.regs.status.sinkOpen = false ∧ u.regs.progress = t.regs.progress ∧
      u.audioTrace = t.audioTrace ++ [(.aClose, r)] ∧ u.fileTrace = t.fileTrace := by
  refine ⟨_, step_answer hq hin, ?_⟩
  cases r <;> exact ⟨rfl, rfl, rfl, rfl, rfl, rfl, rfl, rfl⟩

/-- Settles O52: the Fail answer follows a stretch of Ok answers; by the event it either ends the command or leaves the
releasing AClose, whose answer ends it. -/
theorem firstFailureEndsTheScript : Obligations.FirstFailureEndsTheScript := by
  intro s before e after opened later hq hlegal hsink hin
  rw [hq] at hlegal
  have hrecord := answered_fail_afterOks s before after e opened later rfl
  refine ⟨_, run_oks_then_answer hq hin, hrecord, fun hends => ?_, fun hplays => ?_⟩
  · have he : e.isPlayOrPause = false := by
      rcases hends with rfl | rfl | ⟨id, b, sr, rfl⟩ <;> rfl
    exact answered_fail_ends rfl (offered_afterOks hlegal) he (congrArg (openedAfterOks before) hsink)
  · have hseqr := answered_fail_seqr_of_play ((isPlayOrPause_iff e).mpr hplays) after (openedAfterOks before opened)
      (s.afterOks before (e :: after) opened later)
    exact ⟨hseqr, fun r later' hlater => step_releasing hseqr ((congrArg State.inputs hrecord).trans hlater)⟩

end Sys2Proof.Machine
end

section
/-! SEND and SAVE (spec/46_sequencer.md): what each command does (R178, R181), and the script and the samples it makes
(R179, R180, R182 to R187). -/

namespace Sys2Proof.Machine

/-! ### The pause count -/

/-- `ceilDiv` is the ceiling of the quotient in the rationals. -/
theorem ceilDiv_eq_ceil (n : ℕ) {d : ℕ} (hd : 0 < d) : ceilDiv n d = ⌈(n : ℚ) / d⌉₊ := by
  refine eq_of_forall_ge_iff fun c => ?_
  have hnat : ceilDiv n d ≤ c ↔ n ≤ d * c := ceilDiv_le_iff_le_mul hd
  have hpos : (0 : ℚ) < d := Nat.cast_pos.mpr hd
  rw [hnat, Nat.ceil_le, div_le_iff₀' hpos, ← Nat.cast_mul, Nat.cast_le]

/-- R12: the scale of Q16.16 cancels in a quotient. -/
theorem toRat_div_toRat (a b : Word) : Q16.toRat ⟨a⟩ / Q16.toRat ⟨b⟩ = (a.toNat : ℚ) / b.toNat :=
  div_div_div_cancel_right₀ (by norm_num) _ _

/-- Settles O45: P_PAUSE is the ceiling of the quotient of the raw values, which is the quotient of the durations. -/
theorem pauseCountIsTheExactCeiling : Obligations.PauseCountIsTheExactCeiling := by
  intro s hdur
  have hpos : 0 < s.regs.bitDur.toNat := Nat.pos_of_ne_zero fun h => hdur (BitVec.eq_of_toNat_eq h)
  have hceil : s.pPause = ⌈(s.regs.pause.toNat : ℚ) / s.regs.bitDur.toNat⌉₊ := ceilDiv_eq_ceil _ hpos
  exact ⟨by rw [toRat_div_toRat, hceil], hceil⟩

/-! ### The script of SEND -/

/-- Settles O43: the length law of the script is `sendScript_length`. -/
theorem sendScriptHasItsLength : Obligations.SendScriptHasItsLength := sendScript_length

theorem filterMap_played_sendPacket (s : State) (p : List Byte) :
    (s.sendPacket p).filterMap Event.played = s.modulatePacket p := by
  have hplayed : Event.played ∘ (fun t => .aPlay t s.rate) = some := rfl
  simp [State.sendPacket, State.playPacket, List.filterMap_map, hplayed, Event.played]

/-- The buffers SEND plays are those of its packets, in order. -/
theorem filterMap_played_sendScript (s : State) :
    s.sendScript.filterMap Event.played = s.packets.flatMap s.modulatePacket := by
  simp only [State.sendScript, List.filterMap_append, List.filterMap_flatMap, filterMap_played_sendPacket]
  exact List.append_nil _

/-! ### The samples of SAVE -/

/-- R182 to R184: the silent buffers of a packet are one run of zero samples. -/
theorem savePacket_eq (s : State) (p : List Byte) :
    s.savePacket p = (s.modulatePacket p).flatten ++ List.replicate (s.pPause * s.nBit) zeroSample := by
  rw [State.savePacket, silence, tone_frequency_zero, List.flatten_replicate_replicate]

theorem length_of_mem_modulatePacket {s : State} {p : List Byte} {t : List Sample} (h : t ∈ s.modulatePacket p) :
    t.length = s.nBit := by
  obtain ⟨v, -, rfl⟩ := List.mem_map.mp h
  exact tone_size _ _ _

theorem flatten_modulatePacket_length (s : State) (p : List Byte) :
    (s.modulatePacket p).flatten.length = 8 * p.length * s.nBit := by
  have heach : (s.modulatePacket p).map List.length = (s.modulatePacket p).map fun _ => s.nBit :=
    List.map_congr_left fun _ h => length_of_mem_modulatePacket h
  rw [List.length_flatten, heach, List.map_const', List.sum_replicate, modulatePacket_length, smul_eq_mul]

theorem savePacket_length (s : State) (p : List Byte) :
    (s.savePacket p).length = (8 * p.length + s.pPause) * s.nBit := by
  rw [savePacket_eq, List.length_append, flatten_modulatePacket_length, List.length_replicate, Nat.add_mul]

theorem packets_length (s : State) : s.packets.length = s.redundancyCount := buildAll_size _ _ _ _ _

/-- Settles O46: the packets have one length, so SAVE makes the same number of samples for each. -/
theorem assembledSequenceHasItsLength : Obligations.AssembledSequenceHasItsLength := by
  intro s
  have heach : s.packets.map (fun p => (s.savePacket p).length) =
      s.packets.map fun _ => (8 * (83 + s.msgLength) + s.pPause) * s.nBit :=
    List.map_congr_left fun p hp => by rw [savePacket_length, length_of_mem_packets hp]
  rw [State.assemble, List.length_flatMap, heach, List.map_const', List.sum_replicate, packets_length, smul_eq_mul,
    Nat.mul_assoc]

/-- R166: the first buffer of a framed packet is the low tone. -/
theorem modulatePacket_frame_eq_cons (s : State) (src tx : Word) (seq : Nat) (ck pl : List Byte) :
    ∃ later, s.modulatePacket (frame src tx seq ck pl) = tone s.rate ⟨s.regs.fLow⟩ s.nBit :: later := by
  have hfirst := framedPacketsBeginLowHigh s src tx seq ck pl 0 (by decide)
  exact ⟨_, List.eq_cons_of_mem_head? (List.head?_eq_getElem? ▸ hfirst)⟩

theorem packets_eq_cons {s : State} (h : 0 < s.redundancyCount) :
    ∃ later, s.packets = frame s.regs.srcAddr s.regs.txAddr 1 (checksumText s.message) s.message :: later := by
  obtain ⟨n, hn⟩ := Nat.exists_eq_succ_of_ne_zero h.ne'
  rw [State.packets, buildAll, hn, List.range_succ_eq_map]
  exact ⟨_, rfl⟩

/-- Settles O47: the sequence begins with the first buffer of the first packet, whose N_BIT samples are the low tone. -/
theorem assembledSequenceStartsWithTheFirstTone : Obligations.AssembledSequenceStartsWithTheFirstTone := by
  intro s hcount
  obtain ⟨packets, hpackets⟩ := packets_eq_cons hcount
  obtain ⟨buffers, hbuffers⟩ :=
    modulatePacket_frame_eq_cons s s.regs.srcAddr s.regs.txAddr 1 (checksumText s.message) s.message
  rw [State.assemble, hpackets, List.flatMap_cons, State.savePacket, hbuffers, List.flatten_cons]
  simp only [List.append_assoc]
  exact List.take_left' (tone_size _ _ _)

/-- Settles O48: both paths go through the buffers of the same packets. -/
theorem bothPathsCarryTheSameTones : Obligations.BothPathsCarryTheSameTones := by
  intro s
  refine ⟨s.packets.map fun p => (s.modulatePacket p).flatten, ?_, ?_, ?_⟩
  · rw [List.length_map, packets_length]
  · rw [filterMap_played_sendScript, List.flatMap_def, List.flatten_flatten, List.map_map]
    rfl
  · rw [List.flatMap_map]
    exact List.flatMap_congr fun p _ => savePacket_eq s p

/-! ### The two commands -/

section Commands
variable {s : State}

theorem send_of_lengthExceeded (h : s.lengthExceeded) : send s = finish .lengthExceeded s := if_pos h

theorem save_of_lengthExceeded (h : s.lengthExceeded) : save s = finish .lengthExceeded s := if_pos h

variable (hlen : ¬s.lengthExceeded)
include hlen

theorem send_of_redundancyExceeded (h : s.redundancyExceeded) : send s = finish .seqOverflow s := by
  rw [send, if_neg hlen, if_pos h]

theorem save_of_redundancyExceeded (h : s.redundancyExceeded) : save s = finish .seqOverflow s := by
  rw [save, if_neg hlen, if_pos h]

variable (hcount : ¬s.redundancyExceeded)
include hcount

theorem send_of_legal : send s = start s.sendScript (storeChecksum s) := by
  rw [send, if_neg hlen, if_neg hcount]

theorem save_of_bitDur_zero (h : s.regs.bitDur = 0) : save s = finish .configInvalid s := by
  rw [save, if_neg hlen, if_neg hcount, if_pos h]

theorem save_of_legal (h : s.regs.bitDur ≠ 0) : save s = start s.saveScript (storeChecksum s) := by
  rw [save, if_neg hlen, if_neg hcount, if_neg h]

end Commands

/-- A command that has written memory only and then starts a script has changed the memory, SEQR and BUSY. -/
theorem start_of_mem_only {s u : State} (hu : u = { s with mem := u.mem }) (es : List Event) :
    start es u =
      { s with
        mem := (start es u).mem
        seqr := .run es false false
        regs := { s.regs with status := { s.regs.status with busy := true } } } := by
  rw [hu]
  rfl

theorem start_storeChecksum_bytesStored (es : List Event) {s : State} (hwf : Memory.wf s.mem = true) :
    BytesStored s (start es (storeChecksum s)) Buf.cksum.base (checksumText s.message) :=
  (storeChecksum_bytesStored hwf).of_eq (start_mem _ _) (start_drawEpoch _ _)

/-- Settles O42: by the two checks in order; what passes both stores the checksum and starts the script. -/
theorem sendStartsItsScript : Obligations.SendStartsItsScript := by
  refine ⟨rfl, fun s => ⟨fun hlong => ?tooLong, fun hfits hover => ?overflow, fun hwf hfits hcount => ?started⟩⟩
  case tooLong => exact congrArg Host.Outcome.next (send_of_lengthExceeded hlong)
  case overflow => exact congrArg Host.Outcome.next (send_of_redundancyExceeded (not_lt.mpr hfits) hover)
  case started =>
    exact ⟨_, s.message, checksumText s.message,
      congrArg Host.Outcome.next (send_of_legal (not_lt.mpr hfits) (not_lt.mpr hcount)), rfl, rfl,
      start_of_mem_only (storeChecksum_mem_only s) s.sendScript, start_storeChecksum_bytesStored s.sendScript hwf⟩

/-- R182, R184: the silent buffers written as their zero samples. -/
theorem saveScript_eq (s : State) :
    s.saveScript =
      [.fWrite s.regs.fileId
        (s.packets.flatMap fun p => (s.modulatePacket p).flatten ++
          (List.replicate s.pPause (List.replicate s.nBit zeroSample)).flatten) s.rate] := by
  rw [State.saveScript, State.assemble, ← tone_frequency_zero s.rate]
  rfl

/-- Settles O44: by the three checks in order; what passes them stores the checksum and starts the one FWrite. -/
theorem saveStartsItsScript : Obligations.SaveStartsItsScript := by
  refine ⟨rfl, fun s => ⟨fun hlong => ?tooLong, fun hfits hover => ?overflow, fun hfits hcount hdur => ?noBit,
    fun hwf hfits hcount hdur => ?started⟩⟩
  case tooLong => exact congrArg Host.Outcome.next (save_of_lengthExceeded hlong)
  case overflow => exact congrArg Host.Outcome.next (save_of_redundancyExceeded (not_lt.mpr hfits) hover)
  case noBit =>
    exact congrArg Host.Outcome.next (save_of_bitDur_zero (not_lt.mpr hfits) (not_lt.mpr hcount) hdur)
  case started =>
    have hrecord := start_of_mem_only (storeChecksum_mem_only s) s.saveScript
    rw [saveScript_eq] at hrecord
    have hsave := save_of_legal (not_lt.mpr hfits) (not_lt.mpr hcount) hdur
    rw [saveScript_eq] at hsave
    exact ⟨_, s.message, checksumText s.message, congrArg Host.Outcome.next hsave, rfl, rfl, hrecord,
      start_storeChecksum_bytesStored _ hwf⟩

end Sys2Proof.Machine
end

section
/-! The errors of an acceptance step: what ends a command before it has written anything (spec/60_exceptions.md R203 to R206,
R217). -/

namespace Sys2Proof.Machine

/-- R203, R204: an error raised right at acceptance leaves CMD, PROGRESS, STATUS, SEQR and what the bus returns changed. -/
theorem finish_beginCommand_noResponse (e : ErrCode) (w : Word) (s : State) :
    finish e (beginCommand w (noResponse s)) =
      { s with
        hostData := none
        seqr := .idle
        regs := { s.regs with
          cmd := w
          progress := 0
          status := { s.regs.status with err := e.code, done := true, busy := false } } } := rfl

/-- Settles O8: the word is one `decodeCmdw` refuses, so its acceptance is `finish` on the command just begun. -/
theorem illegalWordRaisesIllegalCommand : Obligations.IllegalWordRaisesIllegalCommand := by
  intro s w hb hillegal
  obtain ⟨e, he⟩ := (illegalWordsAreExactlyTheListed w).mpr hillegal
  have haccept : accept w (noResponse s) = finish .illegalCommand (beginCommand w (noResponse s)) := by
    simp only [accept, he]
  rw [exec_wr32_cmd w hb, haccept, finish_beginCommand_noResponse]
  rfl

/-! ### Validation -/

/-- The errors a command can raise at its acceptance, in the order of its checks (spec/60_exceptions.md R205). -/
@[simp] def validationErrors : Cmd → List ErrCode
  | .digest => [.lengthExceeded]
  | .parseAddr _ => [.addressFormat]
  | .buildPacket => [.lengthExceeded, .seqOverflow]
  | .genTone => []
  | .modulate => []
  | .send => [.lengthExceeded, .seqOverflow]
  | .save => [.lengthExceeded, .seqOverflow, .configInvalid]

/-- R201: validation raises neither OK nor SINK_FAILURE (4). -/
theorem code_of_mem_validationErrors (c : Cmd) : ∀ e ∈ validationErrors c, e.code ∈ [1, 2, 3, 5, 6] := by
  cases c <;> simp [ErrCode.code]

@[simp] theorem finish_ok_err (s : State) : (finish .ok s).regs.status.err = 0 := rfl

/-- R204: a command raises one of its validation errors before it writes anything, or it leaves ERR at 0. -/
theorem runCommand_fails_or_err_zero (c : Cmd) {s : State} (hclear : s.regs.status.err = 0) :
    (∃ e ∈ validationErrors c, runCommand c s = finish e s) ∨ (runCommand c s).regs.status.err = 0 := by
  cases c with
  | digest =>
    simp only [runCommand]
    by_cases hlen : s.lengthExceeded
    · exact .inl ⟨.lengthExceeded, by simp, digest_of_lengthExceeded hlen⟩
    · exact .inr (by rw [digest_of_not_lengthExceeded hlen, finish_ok_err])
  | parseAddr sel =>
    simp only [runCommand]
    by_cases htext : 16 < s.textLength sel ∨ parseDotted (s.addrText sel) = none
    · exact .inl ⟨.addressFormat, by simp, parseAddr_of_illegal htext⟩
    · obtain ⟨hlen, hparse⟩ := not_or.mp htext
      obtain ⟨v, hv⟩ := Option.ne_none_iff_exists'.mp hparse
      exact .inr (by rw [parseAddr_of_legal (not_lt.mp hlen) hv, finish_ok_err])
  | buildPacket =>
    simp only [runCommand]
    by_cases hlen : s.lengthExceeded
    · exact .inl ⟨.lengthExceeded, by simp, buildPacket_of_lengthExceeded hlen⟩
    by_cases hseq : s.seqExceeded
    · exact .inl ⟨.seqOverflow, by simp, buildPacket_of_seqExceeded hlen hseq⟩
    · exact .inr (by rw [buildPacket_of_legal hlen hseq, finish_ok_err])
  | genTone => exact .inr hclear
  | modulate => exact .inr hclear
  | send =>
    simp only [runCommand]
    by_cases hlen : s.lengthExceeded
    · exact .inl ⟨.lengthExceeded, by simp, send_of_lengthExceeded hlen⟩
    by_cases hcount : s.redundancyExceeded
    · exact .inl ⟨.seqOverflow, by simp, send_of_redundancyExceeded hlen hcount⟩
    · exact .inr (by simpa [send_of_legal hlen hcount] using hclear)
  | save =>
    simp only [runCommand]
    by_cases hlen : s.lengthExceeded
    · exact .inl ⟨.lengthExceeded, by simp, save_of_lengthExceeded hlen⟩
    by_cases hcount : s.redundancyExceeded
    · exact .inl ⟨.seqOverflow, by simp, save_of_redundancyExceeded hlen hcount⟩
    by_cases hdur : s.regs.bitDur = 0
    · exact .inl ⟨.configInvalid, by simp, save_of_bitDur_zero hlen hcount hdur⟩
    · exact .inr (by simpa [save_of_legal hlen hcount hdur] using hclear)

/-- R204, R206: an acceptance that leaves an error in ERR is `finish` of that error on the command just begun. -/
theorem accept_of_err_ne_zero {w : Word} {s : State} (herr : (accept w s).regs.status.err ≠ 0) :
    ∃ e : ErrCode, e.code ∈ [1, 2, 3, 5, 6] ∧ accept w s = finish e (beginCommand w s) := by
  rcases accept_cases w s with ⟨-, -, hfin⟩ | ⟨c, -, hrun⟩
  · exact ⟨.illegalCommand, by decide, hfin⟩
  · have hclear : (beginCommand w s).regs.status.err = 0 := rfl
    rcases runCommand_fails_or_err_zero c hclear with ⟨e, he, hfin⟩ | hzero
    · exact ⟨e, code_of_mem_validationErrors c e he, hrun.trans hfin⟩
    · exact absurd (hrun ▸ hzero) herr

/-- Settles O57: the acceptance that leaves an error is `finish` on the command just begun, which has written nothing else. -/
theorem validationErrorsChangeOnlyStatus : Obligations.ValidationErrorsChangeOnlyStatus := by
  intro s t w hb ht herr
  rw [exec_wr32_cmd w hb] at ht
  obtain rfl := Host.Outcome.next.inj ht
  obtain ⟨e, hcode, haccept⟩ := accept_of_err_ne_zero herr
  rw [haccept, finish_beginCommand_noResponse]
  exact ⟨rfl, hcode⟩

end Sys2Proof.Machine
end

section
/-! Reset (spec/70_reset_and_hazards.md R230 to R233). -/

namespace Sys2Proof.Machine

/-! ### The reset state -/

/-- R232: no event has been offered and SEQR is Idle. -/
theorem resetWith_audioReleased (c : CfgReset) : AudioReleased (State.resetWith c) := rfl

/-- Settles O55: for every CFG_RESET, and so for this machine's. -/
theorem resetMeetsInvariantAndProtocol : Obligations.ResetMeetsInvariantAndProtocol :=
  ⟨fun c => ⟨resetWith_meets_inv c, resetWith_audioReleased c⟩, resetWith_meets_inv _, resetWith_audioReleased _⟩

/-- Settles O59: the reset state is written out so in the model. -/
theorem resetSetsEveryRegister : Obligations.ResetSetsEveryRegister :=
  fun _ => ⟨rfl, rfl, rfl, rfl, rfl⟩

/-! ### The reset input -/

/-- The converse of the reset case of `step_next_cases`. -/
theorem step_reset {s : State} {rest : List Input} (h : s.inputs = .reset :: rest) :
    step s = .next (hardReset Config.cfgReset { s with inputs := rest }) := by
  simp only [step, takeInput_cons h]

/-- R233: nothing is written after the reset, so every byte reads as its draw. -/
theorem hardReset_readByte (c : CfgReset) (s : State) (a : Nat) :
    (hardReset c s).readByte a = Config.resetByte (hardReset c s).drawEpoch a := rfl

theorem hardReset_drawEpoch_ne (c : CfgReset) (s : State) : (hardReset c s).drawEpoch ≠ s.drawEpoch :=
  Nat.succ_ne_self s.drawEpoch

/-- Settles O60: the step is `hardReset`, which is the reset state with the inputs left and the next draw number. -/
theorem resetInputRestoresReset : Obligations.ResetInputRestoresReset :=
  fun _ _ hin => ⟨_, step_reset hin, rfl, rfl, rfl, rfl, rfl, hardReset_drawEpoch_ne _ _, hardReset_readByte _ _⟩

end Sys2Proof.Machine
end
